-- ==== Sys2Proof/Word.lean ====
section
/-! DEFINITION. The word types of the HSC block (00_scope.md R6 to R9). -/

namespace Sys2Proof

/-- One bus word, one register, one command word (10_state.md R32, 30_encoding.md R120). -/
abbrev Word := BitVec 32

/-- One byte of text or pixel memory (10_state.md R57, R59). -/
abbrev Byte := BitVec 8

/-- One symbol, a value 0..255 (00_scope.md R6, `SYM_BITS = 8`). -/
abbrev Symbol := BitVec 8

/-- A finite sequence of bits in the order they are produced or consumed (00_scope.md R9). -/
abbrev Bitstring := List Bool

end Sys2Proof
end

