-- ==== Sys2Proof/Syntax.lean ====
section
/-! DEFINITION. The commands of HSC-CMD version 1: the eight rows of spec/opcode_table.json
(30_encoding.md R122). A command has no operand fields: every operand is a fixed register, table or
memory (R121). -/

namespace Sys2Proof

/-- One command (30_encoding.md R122). -/
inductive Instr where
  /-- do nothing (46_control.md R237) -/
  | nop
  /-- tally the symbols of the text (40_frequency_table.md R140) -/
  | freq
  /-- build the Huffman tree and the code ROM (41_tree_builder.md R150) -/
  | build
  /-- text to bitstring (43_encoder.md R190) -/
  | encode
  /-- bitstring to text (44_decoder.md R200) -/
  | decode
  /-- length header and bitstring into the pixel LSBs (45_lsb_channel.md R218) -/
  | embed
  /-- bitstring back from the pixel LSBs (45_lsb_channel.md R225) -/
  | extract
  /-- check the code ROM and commit it (42_code_rom.md R174) -/
  | commitTable
  deriving DecidableEq, Repr

end Sys2Proof
end

