-- ==== Sys2Proof/Decode.lean ====
section
/-! DEFINITION. Decoding and encoding of command words (30_encoding.md R120 to R123). -/

namespace Sys2Proof

/-- Why a command word is illegal (30_encoding.md R124). Safe: the Engine then completes the command
with `ILLEGAL_COMMAND`, as 46_control.md R238 says. -/
inductive Illegal where
  /-- bits [31:4] are not all zero -/
  | reservedBitsSet
  /-- opcode 0x8 to 0xF -/
  | reservedOpcode
  deriving DecidableEq, Repr

/-- The opcode map of 30_encoding.md R122. -/
def commandOf (opcode : BitVec 4) : Option Instr :=
  match opcode with
  | 0x0#4 => some .nop
  | 0x1#4 => some .freq
  | 0x2#4 => some .build
  | 0x3#4 => some .encode
  | 0x4#4 => some .decode
  | 0x5#4 => some .embed
  | 0x6#4 => some .extract
  | 0x7#4 => some .commitTable
  | _ => none

/-- Decoding of a written `CMD` word (30_encoding.md R123): total, every word has one verdict. -/
def decode (w : Word) : Except Illegal Instr :=
  if w.extractLsb' 4 28 ≠ 0 then .error .reservedBitsSet
  else
    match commandOf (w.extractLsb' 0 4) with
    | some i => .ok i
    | none => .error .reservedOpcode

/-- The opcode of a command (30_encoding.md R122). -/
def opcodeOf : Instr → BitVec 4
  | .nop => 0x0
  | .freq => 0x1
  | .build => 0x2
  | .encode => 0x3
  | .decode => 0x4
  | .embed => 0x5
  | .extract => 0x6
  | .commitTable => 0x7

/-- The word of a command: `ZERO` in [31:4], `OPCODE` in [3:0] (30_encoding.md R120). -/
def encode (i : Instr) : Word := 0#28 ++ opcodeOf i

/-- The command read from the low `nbits` bits of `w` (every higher bit is 0). A command is one 32-bit
word (30_encoding.md R125), so a number that does not fit one word is no command. -/
def decodeTableWord (nbits w : Nat) : Option Instr :=
  if w % 2 ^ nbits < 2 ^ 32 then
    match decode (BitVec.ofNat 32 (w % 2 ^ nbits)) with
    | .ok i => some i
    | .error _ => none
  else none

end Sys2Proof
end

