-- ==== Sys2Proof/Config.lean ====
section
/-! DEFINITION. What an implementation of HSC fixes (00_scope.md R6) and the one value the spec
leaves free (93_implementation_defined.md I2). -/

namespace Sys2Proof

/-- The OPEN parameters of 00_scope.md R6. `LATENCY` is no field: it is the place of the Engine's turn
in the agenda (log 2). -/
structure Params where
  /-- `MAX_TEXT_LEN`: bytes of text memory -/
  maxTextLen : Nat
  /-- `MAX_PIXELS`: pixels of pixel memory -/
  maxPixels : Nat
  /-- `BASE`: where the platform places the register block -/
  base : Nat
  deriving DecidableEq, Repr

/-- The reference configuration of 00_scope.md R6.
DESIGN CHOICE (log 1, safe): it is what `State.reset` carries, with `BASE` 0; claims range over every
configuration. -/
def Params.reference : Params := { maxTextLen := 65536, maxPixels := 1048576, base := 0 }

/-- `MAX_BITS`, the longest bitstring the block handles (00_scope.md R6). -/
def maxBits : Nat := 2 ^ 24 - 1

/-- The size of bit memory in bits (10_state.md R58). -/
def bitMemorySize : Nat := 2 ^ 24

/-- `MAX_CODE_LEN` (00_scope.md R6). -/
def maxCodeLen : Nat := 255

/-- `HDR_BITS`, the width of the embedded length header (00_scope.md R6). -/
def hdrBits : Nat := 24

/-- `NODE_NONE`, the "no child" node handle (00_scope.md R6). -/
def nodeNone : BitVec 9 := 0x1FF

/-- The identification constant of `ID` (10_state.md R33). -/
def idConstant : Word := 0x48554646

/-- The unspecified value of the n-th read presented while busy (70_reset_and_hazards.md R290,
93_implementation_defined.md I2: "any value"). A FREE VALUE: it has no body, so nothing can be proved
of it (log 6, safe). -/
opaque Config.busyReadData : Nat → Word

end Sys2Proof
end

