-- ==== Sys2Proof/Machine/State.lean ====
section
/-! DEFINITION. The state of the HSC block as plain data: every register field, table, memory and port
of 10_state.md, and the inputs still to come. -/

namespace Sys2Proof.Machine

/-- A memory: (address, value) pairs, addresses strictly rising. An address that is not listed is
UNWRITTEN and has no value (10_state.md R63, 93_implementation_defined.md I1; log 11, safe). Text and
pixel memory hold bytes (`Host.Cell`), bit memory holds bits. -/
abbrev Memory (α : Type) := List (Nat × α)

/-- One code-ROM entry, the pair (`LEN`, `CODEVAL`) of 10_state.md R55. -/
structure CodeEntry where
  /-- `LEN`: the code length, 0 when the symbol is absent -/
  len : BitVec 8
  /-- `CODEVAL`: the code value, right-aligned (42_code_rom.md R170) -/
  value : BitVec 256
  deriving DecidableEq, Repr

/-- One node-arena entry (10_state.md R56). -/
structure Node where
  /-- `KIND`: 0 leaf, 1 internal -/
  kind : BitVec 1
  /-- `FREQ` -/
  freq : BitVec 32
  /-- `SYM` -/
  sym : BitVec 8
  /-- `LEFT`, the edge labelled "0" -/
  left : BitVec 9
  /-- `RIGHT`, the edge labelled "1" -/
  right : BitVec 9
  deriving DecidableEq, Repr

/-- The all-zero code-ROM entry, the reset value (10_state.md R55). -/
def CodeEntry.zero : CodeEntry := { len := 0, value := 0 }

/-- The all-zero node entry, the reset value (10_state.md R56). -/
def Node.zero : Node := { kind := 0, freq := 0, sym := 0, left := 0, right := 0 }

/-- A host transaction (20_memory.md R81). -/
inductive HostTxn where
  /-- `HostRead(off, be)` -/
  | read (off : BitVec 12) (be : BitVec 4)
  /-- `HostWrite(off, be, data)` -/
  | write (off : BitVec 12) (be : BitVec 4) (data : Word)
  deriving DecidableEq, Repr

/-- An input still to come: what happens next, and whose turn it is (log 2). -/
inductive Event where
  /-- the Host presents a transaction (20_memory.md R81) -/
  | host (t : HostTxn)
  /-- the Engine's completion step is taken now, `LATENCY` having passed (46_control.md R236) -/
  | engine
  /-- the level of the `rst` port at a rising clock edge (70_reset_and_hazards.md R280) -/
  | rst (level : Bool)
  deriving DecidableEq, Repr

/-- Why the model stops a run. Each is demanded by 93_implementation_defined.md I1: "a command or a
performed host window read that reads an unwritten byte or bit stops the model". -/
inductive Fault where
  /-- raised by FREQ, ENCODE and a text window read at a text byte nothing has written.
  SAFE: the hardware goes on with some value. -/
  | unwrittenText (index : Nat)
  /-- raised by DECODE, EMBED and a bit window read at a bit nothing has written.
  SAFE: the hardware goes on with some value. -/
  | unwrittenBit (index : Nat)
  /-- raised by EMBED, EXTRACT and a pixel window read at a pixel byte nothing has written.
  SAFE: the hardware goes on with some value. -/
  | unwrittenPixel (index : Nat)
  deriving DecidableEq, Repr

/-- Why the model refuses to step. -/
inductive Refusal where
  /-- an instruction without a meaning; no arm of exec answers it. SAFE. -/
  | notModelled (mnemonic : String)
  /-- raised by step when the configuration is outside the ranges of 00_scope.md R6, as
  93_implementation_defined.md I4 and I5 demand, and for an unaligned `BASE` (log 1). SAFE: no hardware has such a configuration. -/
  | configOutOfRange
  deriving DecidableEq, Repr

/-- A command error with the details it records (60_exceptions.md R250, R251). An error is a
completion, not a stop (R252). -/
inductive CmdError where
  /-- no symbol to count or to build a tree from (FREQ, BUILD) -/
  | emptyInput
  /-- a text symbol has no code (ENCODE) -/
  | unknownSymbol (symbol : Symbol) (position : Nat)
  /-- required against available (EMBED slots, ENCODE bits, DECODE symbols) -/
  | capacity (required available : Nat)
  /-- fewer than 24 slots, so no header (EXTRACT) -/
  | noHeader (slots : Nat)
  /-- the declared length exceeds the slots after the header (EXTRACT) -/
  | corruptHeader (declared remaining : Nat)
  /-- no committed table (DECODE) -/
  | missingCodeTable
  /-- an illegal command word -/
  | illegalCommand (word : Word)
  /-- a length register above its bound (FREQ, ENCODE, EMBED, EXTRACT) -/
  | parameter (value bound : Nat)
  /-- COMMIT_TABLE, reason 1: no entry present -/
  | tableEmpty
  /-- COMMIT_TABLE, reason 2: bits set at or above `LEN` -/
  | tableStrayBits (symbol : Symbol)
  /-- COMMIT_TABLE, reason 3: the code of `s` is a prefix of, or equal to, the code of `t` -/
  | tablePrefix (s t : Symbol)
  deriving DecidableEq, Repr

/-- How a command ends when it does not succeed: it raises an error, or the model stops. -/
inductive Halt where
  /-- the command raises an error (00_scope.md R11) -/
  | raised (e : CmdError)
  /-- the command reads an unwritten location -/
  | fault (f : Fault)
  deriving DecidableEq, Repr

/-- The whole state. Registers are the fields of 10_state.md R32 to R50 that have storage. -/
structure State where
  /-- the implementation parameters (00_scope.md R6); no step changes them -/
  cfg : Params
  /-- the inputs still to come, the MODEL's own field (log 2) -/
  agenda : List Event
  /-- the level of the `rst` port (20_memory.md R80, log 3) -/
  rst : Bool
  /-- `h_rdata` after the last read (20_memory.md R80, log 5) -/
  rdata : Word
  /-- how many unspecified read values have been used, the MODEL's own field (log 6) -/
  freeReads : Nat
  /-- the opcode latch of the command in flight; none when idle (10_state.md R61). `STATUS.BUSY` is
  "some" (log 4) -/
  latch : Option Word
  /-- `STATUS.DONE` (10_state.md R35) -/
  done : Bool
  /-- `STATUS.TRUNC` -/
  trunc : Bool
  /-- `STATUS.CODE_VALID` -/
  codeValid : Bool
  /-- `STATUS.HOST_ERR` -/
  hostErr : Bool
  /-- `STATUS.ERR_CODE` -/
  errCode : BitVec 4
  /-- `CTRL.IRQ_EN` (10_state.md R36) -/
  irqEn : Bool
  /-- `TEXT_LEN` (10_state.md R37) -/
  textLen : BitVec 24
  /-- `BIT_LEN` (10_state.md R38) -/
  bitLen : BitVec 24
  /-- `PIX_COUNT` (10_state.md R39) -/
  pixCount : BitVec 30
  /-- `SYM_COUNT` (10_state.md R40) -/
  symCount : BitVec 9
  /-- `NODE_COUNT` (10_state.md R41) -/
  nodeCount : BitVec 10
  /-- `ROOT` (10_state.md R42) -/
  root : BitVec 9
  /-- `ERR_INFO0` (10_state.md R43) -/
  errInfo0 : Word
  /-- `ERR_INFO1` (10_state.md R44) -/
  errInfo1 : Word
  /-- `DANGLE_START` (10_state.md R45) -/
  dangleStart : BitVec 24
  /-- `DANGLE_LEN` (10_state.md R46) -/
  dangleLen : BitVec 24
  /-- `MEM_SEL` (10_state.md R49) -/
  memSel : BitVec 3
  /-- `MEM_ADDR` (10_state.md R50) -/
  memAddr : Word
  /-- the frequency table `FREQ[0..255]` (10_state.md R54) -/
  freq : Vector (BitVec 24) 256
  /-- the code ROM `CODE[0..255]` (10_state.md R55) -/
  rom : Vector CodeEntry 256
  /-- the node arena `NODE[0..510]` (10_state.md R56) -/
  node : Vector Node 511
  /-- text memory (10_state.md R57) -/
  text : List Host.Cell
  /-- bit memory, one entry a bit (10_state.md R58, log 11) -/
  bits : List (Nat × Bool)
  /-- pixel memory (10_state.md R59) -/
  pix : List Host.Cell
  deriving DecidableEq, Repr

/-- The reset state of 10_state.md R63 in the configuration `cfg`. -/
def State.resetWith (cfg : Params) : State where
  cfg := cfg
  agenda := []
  rst := false
  rdata := 0
  freeReads := 0
  latch := none
  done := false
  trunc := false
  codeValid := false
  hostErr := false
  errCode := 0
  irqEn := false
  textLen := 0
  bitLen := 0
  pixCount := 0
  symCount := 0
  nodeCount := 0
  root := nodeNone
  errInfo0 := 0
  errInfo1 := 0
  dangleStart := 0
  dangleLen := 0
  memSel := 0
  memAddr := 0
  freq := Vector.replicate 256 0
  rom := Vector.replicate 256 CodeEntry.zero
  node := Vector.replicate 511 Node.zero
  text := []
  bits := []
  pix := []

/-- The machine right after reset (10_state.md R63), in the reference configuration (log 1), with no
input to come (log 2). -/
def State.reset : State := State.resetWith Params.reference

end Sys2Proof.Machine
end

