-- ==== Sys2Proof/Machine/Bitstring.lean ====
section
/-! DEFINITION. Bit strings, their values, and the byte and bit order of words (00_scope.md R8, R9,
20_memory.md R85, R89). -/

namespace Sys2Proof.Machine

/-- `val(c)`: the leftmost bit is the most significant (00_scope.md R9). -/
def bitsVal (c : Bitstring) : Nat := c.foldl (fun acc b => 2 * acc + b.toNat) 0

/-- `str_L(v)`: the length-`len` bitstring whose value is `v` (00_scope.md R9). -/
def strOf (len v : Nat) : Bitstring := (List.range len).map fun j => v.testBit (len - 1 - j)

/-- The code string of a code-ROM entry: bit `j` is `CODEVAL[LEN - 1 - j]` (42_code_rom.md R170). -/
def CodeEntry.string (e : CodeEntry) : Bitstring := strOf e.len.toNat e.value.toNat

/-- The entry of a code string (41_tree_builder.md R161). -/
def CodeEntry.ofString (c : Bitstring) : CodeEntry :=
  { len := BitVec.ofNat 8 c.length, value := BitVec.ofNat 256 (bitsVal c) }

/-- The word whose bits [8j+7:8j] are the j-th byte (20_memory.md R85, R89: little-endian). -/
def packBytes (bs : List Byte) : Word :=
  BitVec.ofNat 32 (bs.foldr (fun b acc => b.toNat + 256 * acc) 0)

/-- The word whose bit `b` is the b-th bit (20_memory.md R85: least-significant bit first). -/
def packBits (bs : List Bool) : Word :=
  BitVec.ofNat 32 (bs.foldr (fun b acc => b.toNat + 2 * acc) 0)

/-- The four bytes of a word, byte 0 first (20_memory.md R85). -/
def unpackBytes (w : Word) : List Byte :=
  [w.extractLsb' 0 8, w.extractLsb' 8 8, w.extractLsb' 16 8, w.extractLsb' 24 8]

/-- The 32 bits of a word, bit 0 first (20_memory.md R85). -/
def unpackBits (w : Word) : List Bool := (List.range 32).map fun b => w.getLsbD b

/-- The 24 header bits of a payload length, most significant first: slot `t` carries `L[23 - t]`
(45_lsb_channel.md R216). -/
def headerBits (len : BitVec 24) : Bitstring := strOf hdrBits len.toNat

/-- A byte with its least significant bit replaced (45_lsb_channel.md R221). -/
def setLsb (v : Byte) (b : Bool) : Byte := (v &&& 0xFE) ||| (if b then 0x01 else 0x00)

/-- The least significant bit of a byte (00_scope.md R8). -/
def lsb (v : Byte) : Bool := v.getLsbD 0

end Sys2Proof.Machine
end

