-- ==== Sys2Proof/Machine/Flags.lean ====
section
/-! DEFINITION. The status and control registers as words, the interrupt output, and the codes and
details of command errors (10_state.md R35, R36, R53, 60_exceptions.md R250, R251, R262). -/

namespace Sys2Proof.Machine

/-- `STATUS.BUSY`: 1 from issue to completion (10_state.md R35). -/
def State.busy (s : State) : Bool := s.latch.isSome

/-- The word `STATUS` reads (10_state.md R35): reserved bits 0. -/
def State.statusWord (s : State) : Word :=
  0#20 ++ s.errCode ++ 0#3 ++ BitVec.ofBool s.hostErr ++ BitVec.ofBool s.codeValid
    ++ BitVec.ofBool s.trunc ++ BitVec.ofBool s.done ++ BitVec.ofBool s.busy

/-- The word `CTRL` reads (10_state.md R36). -/
def State.ctrlWord (s : State) : Word := 0#31 ++ BitVec.ofBool s.irqEn

/-- The interrupt output (60_exceptions.md R262). -/
def State.irq (s : State) : Bool := s.done && s.irqEn

/-- A write of `STATUS`: clears `DONE` on bit 1 and `HOST_ERR` on bit 4, nothing else
(10_state.md R35). -/
def State.writeStatus (s : State) (data : Word) : State :=
  { s with done := s.done && !data.getLsbD 1, hostErr := s.hostErr && !data.getLsbD 4 }

/-- `STATUS.ERR_CODE` of an error (60_exceptions.md R250). -/
def CmdError.code : CmdError → BitVec 4
  | .emptyInput => 1
  | .unknownSymbol _ _ => 2
  | .capacity _ _ => 3
  | .noHeader _ => 4
  | .corruptHeader _ _ => 4
  | .missingCodeTable => 5
  | .illegalCommand _ => 6
  | .parameter _ _ => 7
  | .tableEmpty => 8
  | .tableStrayBits _ => 8
  | .tablePrefix _ _ => 8

/-- `ERR_INFO0` of an error (60_exceptions.md R251). -/
def CmdError.info0 : CmdError → Word
  | .emptyInput => 0
  | .unknownSymbol symbol _ => symbol.setWidth 32
  | .capacity required _ => BitVec.ofNat 32 required
  | .noHeader _ => 0xFFFFFFFF
  | .corruptHeader declared _ => BitVec.ofNat 32 declared
  | .missingCodeTable => 0
  | .illegalCommand word => word
  | .parameter value _ => BitVec.ofNat 32 value
  | .tableEmpty => 1
  | .tableStrayBits _ => 2
  | .tablePrefix _ _ => 3

/-- `ERR_INFO1` of an error (60_exceptions.md R251). -/
def CmdError.info1 : CmdError → Word
  | .emptyInput => 0
  | .unknownSymbol _ position => BitVec.ofNat 32 position
  | .capacity _ available => BitVec.ofNat 32 available
  | .noHeader slots => BitVec.ofNat 32 slots
  | .corruptHeader _ remaining => BitVec.ofNat 32 remaining
  | .missingCodeTable => 0
  | .illegalCommand _ => 0
  | .parameter _ bound => BitVec.ofNat 32 bound
  | .tableEmpty => 0
  | .tableStrayBits symbol => symbol.setWidth 32
  | .tablePrefix s t => s.setWidth 32 ||| (t.setWidth 32 <<< 16)

end Sys2Proof.Machine
end

