-- ==== Sys2Proof/Machine/Ops.lean ====
section
/-! DEFINITION. The named operations over memories and registers: reading and writing a memory, the
issue and the two completions of a command, reset, and the host-error flag. -/

namespace Sys2Proof.Machine

/-- The canonical form of a memory: addresses strictly rising. -/
abbrev Memory.wf {α : Type} (m : Memory α) : Prop := (m.map Prod.fst).Pairwise (· < ·)

/-- Every listed address is below `size`. -/
abbrev Memory.within {α : Type} (m : Memory α) (size : Nat) : Prop := ∀ p ∈ m, p.1 < size

/-- The value at address `a`; none when nothing has written it (93_implementation_defined.md I1). -/
def Memory.read {α : Type} : Memory α → Nat → Option α
  | [], _ => none
  | (b, v) :: rest, a => if a = b then some v else Memory.read rest a

/-- The memory with `v` at address `a`, kept in canonical form. -/
def Memory.write {α : Type} : Memory α → Nat → α → Memory α
  | [], a, v => [(a, v)]
  | (b, x) :: rest, a, v =>
    if a < b then (a, v) :: (b, x) :: rest
    else if a = b then (a, v) :: rest
    else (b, x) :: Memory.write rest a v

/-- The memory with the values `vs` at addresses `a, a + 1, …`. -/
def Memory.writeAll {α : Type} (m : Memory α) (a : Nat) : List α → Memory α
  | [] => m
  | v :: vs => Memory.writeAll (Memory.write m a v) (a + 1) vs

/-- The values at addresses `a, …, a + n - 1`, or the fault of the first one nothing has written
(93_implementation_defined.md I1, log 9). -/
def Memory.readRange {α : Type} (m : Memory α) (missing : Nat → Fault) : Nat → Nat → Except Fault (List α)
  | _, 0 => .ok []
  | a, n + 1 =>
    match Memory.read m a with
    | none => .error (missing a)
    | some v =>
      match Memory.readRange m missing (a + 1) n with
      | .error f => .error f
      | .ok vs => .ok (v :: vs)

/-- The bytes at addresses `a, …, a + n - 1` of a memory of `size` bytes; positions at or beyond the
size read 0 (20_memory.md R85). -/
def Memory.readSized (m : Memory Byte) (missing : Nat → Fault) (size : Nat) :
    Nat → Nat → Except Fault (List Byte)
  | _, 0 => .ok []
  | a, n + 1 =>
    match (if a < size then Memory.read m a else some 0) with
    | none => .error (missing a)
    | some v =>
      match Memory.readSized m missing size (a + 1) n with
      | .error f => .error f
      | .ok vs => .ok (v :: vs)

/-- The bytes `vs` written at addresses `a, a + 1, …`; positions at or beyond the size ignore the write
(20_memory.md R85). -/
def Memory.writeSized (m : Memory Byte) (size a : Nat) : List Byte → Memory Byte
  | [] => m
  | v :: vs => Memory.writeSized (if a < size then Memory.write m a v else m) size (a + 1) vs

/-- A command's issue (46_control.md R235): the word is latched (`BUSY` rises) and the fields that
describe the last command are cleared. It is also what ends an error's report, the block's only
"return" from an error (60_exceptions.md R258). -/
def State.issue (s : State) (w : Word) : State :=
  { s with
    latch := some w, done := false, trunc := false, errCode := 0
    errInfo0 := 0, errInfo1 := 0, dangleStart := 0, dangleLen := 0 }

/-- The completion fields of a success (46_control.md R236): `BUSY` falls, `DONE` rises, and
`ERR_CODE`, `ERR_INFO0` and `ERR_INFO1` are 0 (10_state.md R43, R44, R53). -/
def State.complete (s : State) : State :=
  { s with latch := none, done := true, errCode := 0, errInfo0 := 0, errInfo1 := 0 }

/-- The completion with an error (60_exceptions.md R252): the block's one way of taking an exception.
The error's code and details are saved, `BUSY` falls, `DONE` rises, and nothing else changes. -/
def State.raise (s : State) (e : CmdError) : State :=
  { s with latch := none, done := true, errCode := e.code, errInfo0 := e.info0, errInfo1 := e.info1 }

/-- A command's end, from what its rule gave (00_scope.md R14, 46_control.md R236): the writes and the
completion fields, or the error fields alone, or the model's stop. -/
def State.finish (s : State) (r : Except Halt State) : Host.Outcome State Fault Refusal :=
  match r with
  | .ok s' => .next s'.complete
  | .error (.raised e) => .next (s.raise e)
  | .error (.fault f) => .fault f

/-- The effect of `rst = 1` at a clock edge (70_reset_and_hazards.md R280, R281): the reset state; a
command in flight is abandoned. The inputs to come, the data last read and the use of free values are
not the block's. -/
def State.applyReset (s : State) : State :=
  { State.resetWith s.cfg with
    agenda := s.agenda, rst := true, rdata := s.rdata, freeReads := s.freeReads }

/-- `STATUS.HOST_ERR <- 1` (20_memory.md R88). -/
def State.flagHostErr (s : State) : State := { s with hostErr := true }

/-- `MEM_ADDR` one further, modulo 2^32 (20_memory.md R84). -/
def State.advanceMemAddr (s : State) : State := { s with memAddr := s.memAddr + 1 }

/-- The host receives `w` (20_memory.md R80, `h_rdata`). -/
def State.deliver (s : State) (w : Word) : State := { s with rdata := w }

end Sys2Proof.Machine
end

