-- ==== Sys2Proof/Machine/Operands.lean ====
section
/-! DEFINITION. The implicit operands of commands (30_encoding.md R121, 20_memory.md R99): the text,
the bitstring, pixel slots, frequency counters, code-ROM entries, and the code lookups of
42_code_rom.md R177 and R179. -/

namespace Sys2Proof.Machine

/-- All symbols, ascending. -/
def allSymbols : List Symbol := (List.range 256).map (BitVec.ofNat 8)

/-- `FREQ[c]` (10_state.md R54). -/
def State.freqOf (s : State) (c : Symbol) : BitVec 24 := s.freq[c.toNat]'c.isLt

/-- The code-ROM entry of `c`: `LEN[c]` and `CODEVAL[c]` (10_state.md R55). -/
def State.entry (s : State) (c : Symbol) : CodeEntry := s.rom[c.toNat]'c.isLt

/-- An entry is present when `LEN` is not 0 (42_code_rom.md R171). -/
def CodeEntry.present (e : CodeEntry) : Bool := e.len != 0

/-- `code(c)` (42_code_rom.md R177): defined when `CODE_VALID = 1` and the entry is present. -/
def State.codeOf (s : State) (c : Symbol) : Option Bitstring :=
  if s.codeValid && (s.entry c).present then some (s.entry c).string else none

/-- The entry matches the bitstring: a present entry with this length and value
(44_decoder.md R203). -/
def CodeEntry.isCode (e : CodeEntry) (c : Bitstring) : Bool :=
  e.present && e.len.toNat == c.length && e.value.toNat == bitsVal c

/-- `rev(c)` (42_code_rom.md R179): the symbol whose entry is `c`, for `1 ≤ |c| ≤ 255`. At most one
qualifies in a committed table (R173).
DESIGN CHOICE (log 10, unsafe only in states no run reaches): if several did, the lowest. -/
def State.symbolOf (s : State) (c : Bitstring) : Option Symbol :=
  if s.codeValid && decide (1 ≤ c.length ∧ c.length ≤ maxCodeLen) then
    allSymbols.find? fun x => (s.entry x).isCode c
  else none

/-- `BIT[0..BIT_LEN-1]` (10_state.md R58). -/
def State.bitOperand (s : State) : Except Fault Bitstring :=
  Memory.readRange s.bits Fault.unwrittenBit 0 s.bitLen.toNat

/-- `TEXT[0..TEXT_LEN-1]` (10_state.md R57). -/
def State.textOperand (s : State) : Except Fault (List Symbol) :=
  Memory.readRange s.text Fault.unwrittenText 0 s.textLen.toNat

/-- `PIX[a..a+n-1]` (10_state.md R59, 45_lsb_channel.md R215). -/
def State.pixelOperand (s : State) (a n : Nat) : Except Fault (List Byte) :=
  Memory.readRange s.pix Fault.unwrittenPixel a n

/-- The number of bit-slots of the pixel buffer, `3 · PIX_COUNT` (45_lsb_channel.md R215). -/
def State.slots (s : State) : Nat := 3 * s.pixCount.toNat

end Sys2Proof.Machine
end

