-- ==== Sys2Proof/Machine/CodeRom.lean ====
section
/-! DEFINITION. COMMIT_TABLE, the check of the code ROM (42_code_rom.md R174). -/

namespace Sys2Proof.Machine

/-- The present symbols of the code ROM, ascending (42_code_rom.md R174, `P`). -/
def State.presentInRom (s : State) : List Symbol := allSymbols.filter fun c => (s.entry c).present

/-- Bits set at or above `LEN` (42_code_rom.md R174, reason 2). -/
def CodeEntry.hasStrayBits (e : CodeEntry) : Bool := e.value.toNat >>> e.len.toNat != 0

/-- The code of `e` is a prefix of, or equal to, the code of `f` (42_code_rom.md R174, reason 3). -/
def CodeEntry.prefixes (e f : CodeEntry) : Bool :=
  decide (e.len.toNat ≤ f.len.toNat) &&
    f.value.toNat >>> (f.len.toNat - e.len.toNat) == e.value.toNat

/-- The first symbol `t ≠ c` of the list whose code the code of `c` prefixes
(42_code_rom.md R174, the inner loop). -/
def State.prefixedBy (s : State) (present : List Symbol) (c : Symbol) : Option Symbol :=
  present.find? fun t => t != c && (s.entry c).prefixes (s.entry t)

/-- The first failing check, in the order of 42_code_rom.md R174 (60_exceptions.md R256); none when the
table passes. -/
def State.tableFault (s : State) : Option CmdError :=
  let present := s.presentInRom
  if present = [] then some .tableEmpty
  else
    match present.find? fun c => (s.entry c).hasStrayBits with
    | some c => some (.tableStrayBits c)
    | none => present.findSome? fun c => (s.prefixedBy present c).map fun t => .tablePrefix c t

/-- The rule of COMMIT_TABLE (42_code_rom.md R174). -/
def commitRule (s : State) : Except Halt State :=
  match s.tableFault with
  | some e => .error (.raised e)
  | none => .ok { s with codeValid := true, symCount := BitVec.ofNat 9 s.presentInRom.length }

/-- COMMIT_TABLE (42_code_rom.md R174). -/
def execCommitTable (s : State) : Host.Outcome State Fault Refusal := s.finish (commitRule s)

end Sys2Proof.Machine
end

