-- ==== Sys2Proof/Machine/Control.lean ====
section
/-! DEFINITION. NOP and illegal command words (46_control.md R237, R238). -/

namespace Sys2Proof.Machine

/-- NOP (46_control.md R237): only the completion fields are written. -/
def execNop (s : State) : Host.Outcome State Fault Refusal := s.finish (.ok s)

/-- The completion of an illegal word (46_control.md R238): `ILLEGAL_COMMAND(w, 0)`. -/
def execIllegal (w : Word) (s : State) : Host.Outcome State Fault Refusal :=
  s.finish (.error (.raised (.illegalCommand w)))

end Sys2Proof.Machine
end

