-- ==== Sys2Proof/Machine/Decoder.lean ====
section
/-! DEFINITION. DECODE, the bitstream decoder (44_decoder.md). -/

namespace Sys2Proof.Machine

/-- The decoder's loop state (44_decoder.md R200, R204): the symbols emitted, the start of the candidate
in bit memory, and the candidate's bits (its length is `cl`). -/
structure DecodeScan where
  /-- the symbols emitted so far, in order -/
  out : List Symbol
  /-- `cs`: where the candidate starts -/
  start : Nat
  /-- the candidate, `BIT[cs..cs+cl-1]` -/
  candidate : Bitstring
  deriving DecidableEq, Repr

/-- The loop state before the first bit (44_decoder.md R204). -/
def DecodeScan.init : DecodeScan := { out := [], start := 0, candidate := [] }

/-- One loop turn: the next bit joins the candidate, and a match emits its symbol and empties the
candidate (44_decoder.md R200, R203 to R205). -/
def State.decodeBit (s : State) (scan : DecodeScan) (b : Bool) : DecodeScan :=
  match s.symbolOf (scan.candidate ++ [b]) with
  | some c =>
    { out := scan.out ++ [c], start := scan.start + (scan.candidate.length + 1), candidate := [] }
  | none => { scan with candidate := scan.candidate ++ [b] }

/-- The whole scan, left to right (44_decoder.md R201). -/
def State.decodeBits (s : State) (input : Bitstring) : DecodeScan :=
  input.foldl s.decodeBit DecodeScan.init

/-- The writes of a successful DECODE (44_decoder.md R200, R205, R206): the text, `TEXT_LEN`, and, when a
fragment remains, `TRUNC` and its place. -/
def State.writeDecoded (s : State) (scan : DecodeScan) : State :=
  let s1 := { s with
    text := Memory.writeAll s.text 0 scan.out, textLen := BitVec.ofNat 24 scan.out.length }
  if scan.candidate = [] then s1
  else { s1 with
    trunc := true
    dangleStart := BitVec.ofNat 24 scan.start
    dangleLen := BitVec.ofNat 24 scan.candidate.length }

/-- The rule of DECODE (44_decoder.md R200, R202, R207). -/
def decodeRule (s : State) : Except Halt State :=
  if s.codeValid = false then .error (.raised .missingCodeTable)
  else
    match s.bitOperand with
    | .error f => .error (.fault f)
    | .ok input =>
      let scan := s.decodeBits input
      if s.cfg.maxTextLen < scan.out.length then
        .error (.raised (.capacity scan.out.length s.cfg.maxTextLen))
      else .ok (s.writeDecoded scan)

/-- DECODE (44_decoder.md R200). -/
def execDecode (s : State) : Host.Outcome State Fault Refusal := s.finish (decodeRule s)

end Sys2Proof.Machine
end

