-- ==== Sys2Proof/Machine/Encoder.lean ====
section
/-! DEFINITION. ENCODE, the bitstream encoder (43_encoder.md). -/

namespace Sys2Proof.Machine

/-- The codes of text positions `i, …, i + n - 1`, concatenated (43_encoder.md R196); the first position
whose symbol has no code raises (R192). -/
def State.encodeFrom (s : State) : Nat → Nat → Except Halt Bitstring
  | _, 0 => .ok []
  | i, n + 1 =>
    match Memory.read s.text i with
    | none => .error (.fault (.unwrittenText i))
    | some c =>
      match s.codeOf c with
      | none => .error (.raised (.unknownSymbol c i))
      | some code =>
        match s.encodeFrom (i + 1) n with
        | .error h => .error h
        | .ok rest => .ok (code ++ rest)

/-- The writes of a successful ENCODE (43_encoder.md R190): the bits from index 0, and `BIT_LEN`. -/
def State.writeBitstring (s : State) (out : Bitstring) : State :=
  { s with bits := Memory.writeAll s.bits 0 out, bitLen := BitVec.ofNat 24 out.length }

/-- The rule of ENCODE (43_encoder.md R190, check order R195). -/
def encodeRule (s : State) : Except Halt State :=
  if s.cfg.maxTextLen < s.textLen.toNat then
    .error (.raised (.parameter s.textLen.toNat s.cfg.maxTextLen))
  else
    match s.encodeFrom 0 s.textLen.toNat with
    | .error h => .error h
    | .ok out =>
      if maxBits < out.length then .error (.raised (.capacity out.length maxBits))
      else .ok (s.writeBitstring out)

/-- ENCODE (43_encoder.md R190). -/
def execEncode (s : State) : Host.Outcome State Fault Refusal := s.finish (encodeRule s)

end Sys2Proof.Machine
end

