-- ==== Sys2Proof/Machine/Frequency.lean ====
section
/-! DEFINITION. FREQ, the symbol-frequency table (40_frequency_table.md). -/

namespace Sys2Proof.Machine

/-- One more occurrence of `c` (40_frequency_table.md R140). -/
def countSymbol (cnt : Vector (BitVec 24) 256) (c : Symbol) : Vector (BitVec 24) 256 :=
  cnt.set c.toNat (cnt[c.toNat]'c.isLt + 1) c.isLt

/-- The counters of a text, from all zero (40_frequency_table.md R140, R144). -/
def tally (text : List Symbol) : Vector (BitVec 24) 256 :=
  text.foldl countSymbol (Vector.replicate 256 0)

/-- The rule of FREQ (40_frequency_table.md R140 to R142). -/
def freqRule (s : State) : Except Halt State :=
  if s.cfg.maxTextLen < s.textLen.toNat then
    .error (.raised (.parameter s.textLen.toNat s.cfg.maxTextLen))
  else if s.textLen = 0 then .error (.raised .emptyInput)
  else
    match s.textOperand with
    | .error f => .error (.fault f)
    | .ok text => .ok { s with freq := tally text }

/-- FREQ (40_frequency_table.md R140). -/
def execFreq (s : State) : Host.Outcome State Fault Refusal := s.finish (freqRule s)

end Sys2Proof.Machine
end

