-- ==== Sys2Proof/Machine/LsbChannel.lean ====
section
/-! DEFINITION. EMBED and EXTRACT, the LSB embedder and extractor (45_lsb_channel.md). -/

namespace Sys2Proof.Machine

/-- The stream EMBED writes: the 24 header bits, then the payload (45_lsb_channel.md R216, R218). -/
def embedStream (len : BitVec 24) (payload : Bitstring) : Bitstring := headerBits len ++ payload

/-- The rule of EMBED (45_lsb_channel.md R218 to R221). -/
def embedRule (s : State) : Except Halt State :=
  if s.cfg.maxPixels < s.pixCount.toNat then
    .error (.raised (.parameter s.pixCount.toNat s.cfg.maxPixels))
  else if s.slots < hdrBits + s.bitLen.toNat then
    .error (.raised (.capacity (hdrBits + s.bitLen.toNat) s.slots))
  else
    match s.bitOperand with
    | .error f => .error (.fault f)
    | .ok payload =>
      match s.pixelOperand 0 (hdrBits + s.bitLen.toNat) with
      | .error f => .error (.fault f)
      | .ok bytes =>
        .ok { s with
          pix := Memory.writeAll s.pix 0 (List.zipWith setLsb bytes (embedStream s.bitLen payload)) }

/-- EMBED (45_lsb_channel.md R218). -/
def execEmbed (s : State) : Host.Outcome State Fault Refusal := s.finish (embedRule s)

/-- The rule of EXTRACT (45_lsb_channel.md R225 to R228). -/
def extractRule (s : State) : Except Halt State :=
  if s.cfg.maxPixels < s.pixCount.toNat then
    .error (.raised (.parameter s.pixCount.toNat s.cfg.maxPixels))
  else if s.slots < hdrBits then .error (.raised (.noHeader s.slots))
  else
    match s.pixelOperand 0 hdrBits with
    | .error f => .error (.fault f)
    | .ok header =>
      let len := bitsVal (header.map lsb)
      if s.slots - hdrBits < len then .error (.raised (.corruptHeader len (s.slots - hdrBits)))
      else
        match s.pixelOperand hdrBits len with
        | .error f => .error (.fault f)
        | .ok bytes =>
          .ok { s with
            bits := Memory.writeAll s.bits 0 (bytes.map lsb), bitLen := BitVec.ofNat 24 len }

/-- EXTRACT (45_lsb_channel.md R225). -/
def execExtract (s : State) : Host.Outcome State Fault Refusal := s.finish (extractRule s)

end Sys2Proof.Machine
end

