-- ==== Sys2Proof/Machine/TreeBuilder.lean ====
section
/-! DEFINITION. BUILD, the Huffman tree builder (41_tree_builder.md). -/

namespace Sys2Proof.Machine

/-- A pair (frequency, handle) of the min-priority queue (41_tree_builder.md R155). -/
abbrev QueueKey := Nat × Nat

/-- The lexicographic order on (frequency, handle) (41_tree_builder.md R155). -/
def keyLe (a b : QueueKey) : Bool := decide (a.1 < b.1 ∨ (a.1 = b.1 ∧ a.2 ≤ b.2))

/-- The least pair of the queue and what remains (41_tree_builder.md R155, `min(Q)`). -/
def popMin : List QueueKey → Option (QueueKey × List QueueKey)
  | [] => none
  | x :: rest =>
    match popMin rest with
    | none => some (x, [])
    | some (m, others) => if keyLe x m then some (x, rest) else some (m, x :: others)

/-- A leaf entry (41_tree_builder.md R150, R153). -/
def leafNode (freq : Nat) (c : Symbol) : Node :=
  { kind := 0, freq := BitVec.ofNat 32 freq, sym := c, left := nodeNone, right := nodeNone }

/-- An internal entry (41_tree_builder.md R150, R156). -/
def internalNode (freq : Nat) (left right : BitVec 9) : Node :=
  { kind := 1, freq := BitVec.ofNat 32 freq, sym := 0, left := left, right := right }

/-- The symbols with a non-zero counter, ascending (41_tree_builder.md R150, `S`). -/
def State.presentInFreq (s : State) : List Symbol := allSymbols.filter fun c => s.freqOf c != 0

/-- The leaves, one a present symbol, handle = place in the list (41_tree_builder.md R153). -/
def State.leaves (s : State) : List Node :=
  s.presentInFreq.map fun c => leafNode (s.freqOf c).toNat c

/-- The merges (41_tree_builder.md R156, R157): pop two, append their parent at the next handle, push it;
when one pair remains its handle is the root. The first argument bounds the number of turns; a queue of
`k` pairs takes `k`. Answers the used arena entries and the root. -/
def mergeNodes : Nat → List QueueKey → List Node → List Node × Nat
  | 0, _, arena => (arena, nodeNone.toNat)
  | turns + 1, queue, arena =>
    match popMin queue with
    | none => (arena, nodeNone.toNat)
    | some ((fa, a), queue1) =>
      match popMin queue1 with
      | none => (arena, a)
      | some ((fb, b), queue2) =>
        mergeNodes turns ((fa + fb, arena.length) :: queue2)
          (arena ++ [internalNode (fa + fb) (BitVec.ofNat 9 a) (BitVec.ofNat 9 b)])

/-- The first queue: the frequency and handle of every leaf (41_tree_builder.md R150). -/
def leafQueue (leaves : List Node) : List QueueKey :=
  leaves.zipIdx.map fun p => (p.1.freq.toNat, p.2)

/-- The used arena entries and the root of the tree over these leaves: one leaf gets a synthesized root
(41_tree_builder.md R154), two or more are merged (R156). -/
def buildTree (leaves : List Node) : List Node × Nat :=
  match leaves with
  | [leaf] => ([leaf, internalNode leaf.freq.toNat 0 nodeNone], 1)
  | _ => mergeNodes leaves.length (leafQueue leaves) leaves

/-- The code assignment (41_tree_builder.md R159, R162): "0" on left edges, "1" on right edges, one pair
a leaf reached. The first argument bounds the depth (log 12). -/
def assignCodes (arena : List Node) : Nat → Nat → Bitstring → List (Symbol × Bitstring)
  | 0, _, _ => []
  | depth + 1, x, path =>
    match arena[x]? with
    | none => []
    | some nd =>
      if nd.kind = 0 then [(nd.sym, if path = [] then [false] else path)]
      else
        assignCodes arena depth nd.left.toNat (path ++ [false]) ++
          (if nd.right = nodeNone then [] else assignCodes arena depth nd.right.toNat (path ++ [true]))

/-- The code-ROM entry of `c` in a code assignment; absent symbols get the zero entry
(41_tree_builder.md R161). -/
def romEntry (codes : List (Symbol × Bitstring)) (c : Symbol) : CodeEntry :=
  match codes.lookup c with
  | some code => CodeEntry.ofString code
  | none => CodeEntry.zero

/-- The code ROM of a code assignment (41_tree_builder.md R161). -/
def romOf (codes : List (Symbol × Bitstring)) : Vector CodeEntry 256 :=
  Vector.ofFn fun c => romEntry codes (BitVec.ofFin c)

/-- The whole arena: the used entries, then all-zero entries (41_tree_builder.md R158). -/
def arenaOf (used : List Node) : Vector Node 511 :=
  Vector.ofFn fun n => used.getD n.val Node.zero

/-- The writes of a successful BUILD (41_tree_builder.md R163). -/
def State.writeTree (s : State) (used : List Node) (root : Nat) : State :=
  { s with
    node := arenaOf used
    nodeCount := BitVec.ofNat 10 used.length
    root := BitVec.ofNat 9 root
    rom := romOf (assignCodes used used.length root [])
    symCount := BitVec.ofNat 9 s.presentInFreq.length
    codeValid := true }

/-- The rule of BUILD (41_tree_builder.md R150, R152). -/
def buildRule (s : State) : Except Halt State :=
  if s.presentInFreq = [] then .error (.raised .emptyInput)
  else .ok (s.writeTree (buildTree s.leaves).1 (buildTree s.leaves).2)

/-- BUILD (41_tree_builder.md R150). -/
def execBuild (s : State) : Host.Outcome State Fault Refusal := s.finish (buildRule s)

end Sys2Proof.Machine
end

