-- ==== Sys2Proof/Machine/Registers.lean ====
section
/-! DEFINITION. The register map: offsets, reads and writes (10_state.md R32 to R52, 20_memory.md
R83). -/

namespace Sys2Proof.Machine

/-- The registers of 10_state.md R32. -/
inductive Reg where
  | id | cmd | status | ctrl | textLen | bitLen | pixCount | symCount | nodeCount | root
  | errInfo0 | errInfo1 | dangleStart | dangleLen | capText | capPixels | memSel | memAddr | memData
  deriving DecidableEq, Repr

/-- The offset of a register (10_state.md R32). -/
def Reg.offset : Reg → BitVec 12
  | .id => 0x000
  | .cmd => 0x004
  | .status => 0x008
  | .ctrl => 0x00C
  | .textLen => 0x010
  | .bitLen => 0x014
  | .pixCount => 0x018
  | .symCount => 0x01C
  | .nodeCount => 0x020
  | .root => 0x024
  | .errInfo0 => 0x028
  | .errInfo1 => 0x02C
  | .dangleStart => 0x030
  | .dangleLen => 0x034
  | .capText => 0x038
  | .capPixels => 0x03C
  | .memSel => 0x040
  | .memAddr => 0x044
  | .memData => 0x048

/-- The register at an aligned offset; none for the reserved offsets (10_state.md R32, R52). -/
def regAt (off : BitVec 12) : Option Reg :=
  match off with
  | 0x000#12 => some .id
  | 0x004#12 => some .cmd
  | 0x008#12 => some .status
  | 0x00C#12 => some .ctrl
  | 0x010#12 => some .textLen
  | 0x014#12 => some .bitLen
  | 0x018#12 => some .pixCount
  | 0x01C#12 => some .symCount
  | 0x020#12 => some .nodeCount
  | 0x024#12 => some .root
  | 0x028#12 => some .errInfo0
  | 0x02C#12 => some .errInfo1
  | 0x030#12 => some .dangleStart
  | 0x034#12 => some .dangleLen
  | 0x038#12 => some .capText
  | 0x03C#12 => some .capPixels
  | 0x040#12 => some .memSel
  | 0x044#12 => some .memAddr
  | 0x048#12 => some .memData
  | _ => none

/-- The word a register reads; reserved bits read 0 (10_state.md R33 to R50, R52). `CMD` reads 0 (R34);
`MEM_DATA` has no storage (R51) and is read through the window instead. -/
def State.regWord (s : State) : Reg → Word
  | .id => idConstant
  | .cmd => 0
  | .status => s.statusWord
  | .ctrl => s.ctrlWord
  | .textLen => s.textLen.setWidth 32
  | .bitLen => s.bitLen.setWidth 32
  | .pixCount => s.pixCount.setWidth 32
  | .symCount => s.symCount.setWidth 32
  | .nodeCount => s.nodeCount.setWidth 32
  | .root => s.root.setWidth 32
  | .errInfo0 => s.errInfo0
  | .errInfo1 => s.errInfo1
  | .dangleStart => s.dangleStart.setWidth 32
  | .dangleLen => s.dangleLen.setWidth 32
  | .capText => (BitVec.ofNat 24 s.cfg.maxTextLen).setWidth 32
  | .capPixels => (BitVec.ofNat 30 s.cfg.maxPixels).setWidth 32
  | .memSel => s.memSel.setWidth 32
  | .memAddr => s.memAddr
  | .memData => 0

/-- A performed write of a register other than `MEM_DATA` (20_memory.md R83): RW fields are stored, W1C
fields applied, `CMD` issues, read-only and reserved fields ignored. -/
def State.writeReg (s : State) (data : Word) : Reg → State
  | .cmd => s.issue data
  | .status => s.writeStatus data
  | .ctrl => { s with irqEn := data.getLsbD 0 }
  | .textLen => { s with textLen := data.setWidth 24 }
  | .bitLen => { s with bitLen := data.setWidth 24 }
  | .pixCount => { s with pixCount := data.setWidth 30 }
  | .memSel => { s with memSel := data.setWidth 3 }
  | .memAddr => { s with memAddr := data }
  | .id => s
  | .symCount => s
  | .nodeCount => s
  | .root => s
  | .errInfo0 => s
  | .errInfo1 => s
  | .dangleStart => s
  | .dangleLen => s
  | .capText => s
  | .capPixels => s
  | .memData => s

end Sys2Proof.Machine
end

