-- ==== Sys2Proof/Machine/Window.lean ====
section
/-! DEFINITION. The data window `MEM_SEL` / `MEM_ADDR` / `MEM_DATA` (20_memory.md R84 to R88). -/

namespace Sys2Proof.Machine

/-- The window memories (10_state.md R49). -/
inductive Window where
  | text | bits | pixel | freqTab | codeRom | nodes
  deriving DecidableEq, Repr

/-- The memory `MEM_SEL` selects; 6 and 7 select nothing (10_state.md R49). -/
def windowOf (sel : BitVec 3) : Option Window :=
  match sel with
  | 0#3 => some .text
  | 1#3 => some .bits
  | 2#3 => some .pixel
  | 3#3 => some .freqTab
  | 4#3 => some .codeRom
  | 5#3 => some .nodes
  | _ => none

/-- `sel(<mem>)` (30_encoding.md R127). -/
def Window.sel : Window → BitVec 3
  | .text => 0
  | .bits => 1
  | .pixel => 2
  | .freqTab => 3
  | .codeRom => 4
  | .nodes => 5

/-- The number of words of a window memory (20_memory.md R85). -/
def Window.words (p : Params) : Window → Nat
  | .text => (p.maxTextLen + 3) / 4
  | .bits => 2 ^ 19
  | .pixel => (3 * p.maxPixels + 3) / 4
  | .freqTab => 256
  | .codeRom => 4096
  | .nodes => 1022

/-- The selected memory when the access is in range (20_memory.md R87). -/
def State.windowInRange (s : State) : Option Window :=
  match windowOf s.memSel with
  | some win => if s.memAddr.toNat < win.words s.cfg then some win else none
  | none => none

/-- Word `m` of a code-ROM entry (20_memory.md R85): `LEN`, then eight words of `CODEVAL`, then zeros. -/
def CodeEntry.word (e : CodeEntry) (m : Nat) : Word :=
  if m = 0 then e.len.setWidth 32
  else if m ≤ 8 then e.value.extractLsb' (32 * (m - 1)) 32
  else 0

/-- A 256-bit value with 32 bits at place `sh` replaced. -/
def replaceSlice (v : BitVec 256) (sh : Nat) (w : Word) : BitVec 256 :=
  (v &&& ~~~((0xFFFFFFFF#256) <<< sh)) ||| (w.setWidth 256 <<< sh)

/-- A code-ROM entry after a window write of its word `m` (20_memory.md R86). -/
def CodeEntry.setWord (e : CodeEntry) (m : Nat) (w : Word) : CodeEntry :=
  if m = 0 then { e with len := w.setWidth 8 }
  else if m ≤ 8 then { e with value := replaceSlice e.value (32 * (m - 1)) w }
  else e

/-- The two window words of a node (20_memory.md R85): even `FREQ`, odd the other fields. -/
def Node.word (nd : Node) (odd : Bool) : Word :=
  if odd then nd.kind ++ 0#5 ++ nd.sym ++ nd.right ++ nd.left else nd.freq

/-- Word `w` of a window memory (20_memory.md R85); a byte or bit nothing has written faults
(93_implementation_defined.md I1). -/
def State.windowRead (s : State) (win : Window) (w : Nat) : Except Fault Word :=
  match win with
  | .text =>
    match Memory.readSized s.text Fault.unwrittenText s.cfg.maxTextLen (4 * w) 4 with
    | .error f => .error f
    | .ok bs => .ok (packBytes bs)
  | .bits =>
    match Memory.readRange s.bits Fault.unwrittenBit (32 * w) 32 with
    | .error f => .error f
    | .ok bs => .ok (packBits bs)
  | .pixel =>
    match Memory.readSized s.pix Fault.unwrittenPixel (3 * s.cfg.maxPixels) (4 * w) 4 with
    | .error f => .error f
    | .ok bs => .ok (packBytes bs)
  | .freqTab => .ok ((s.freqOf (BitVec.ofNat 8 w)).setWidth 32)
  | .codeRom => .ok ((s.entry (BitVec.ofNat 8 (w / 16))).word (w % 16))
  | .nodes => .ok ((s.node.toList.getD (w / 2) Node.zero).word (decide (w % 2 = 1)))

/-- A window write of word `w` (20_memory.md R86). A code-ROM write withdraws the commit, whatever the
word (42_code_rom.md R172). The node arena stores nothing and flags a host error (R88). -/
def State.windowWrite (s : State) (win : Window) (w : Nat) (data : Word) : State :=
  match win with
  | .text => { s with text := Memory.writeSized s.text s.cfg.maxTextLen (4 * w) (unpackBytes data) }
  | .bits => { s with bits := Memory.writeAll s.bits (32 * w) (unpackBits data) }
  | .pixel =>
    { s with pix := Memory.writeSized s.pix (3 * s.cfg.maxPixels) (4 * w) (unpackBytes data) }
  | .freqTab =>
    { s with freq := s.freq.set (BitVec.ofNat 8 w).toNat (data.setWidth 24) (BitVec.ofNat 8 w).isLt }
  | .codeRom =>
    { s with
      codeValid := false
      rom := s.rom.set (BitVec.ofNat 8 (w / 16)).toNat
        ((s.entry (BitVec.ofNat 8 (w / 16))).setWord (w % 16) data) (BitVec.ofNat 8 (w / 16)).isLt }
  | .nodes => s.flagHostErr

/-- A performed read of `MEM_DATA` (20_memory.md R84, R87): out of range it reads 0 and flags a host
error; in both cases `MEM_ADDR` advances. -/
def readMemData (s : State) : Host.Outcome State Fault Refusal :=
  match s.windowInRange with
  | none => .next ((s.flagHostErr.deliver 0).advanceMemAddr)
  | some win =>
    match s.windowRead win s.memAddr.toNat with
    | .error f => .fault f
    | .ok w => .next ((s.deliver w).advanceMemAddr)

/-- A performed write of `MEM_DATA` (20_memory.md R84, R86, R87). -/
def writeMemData (s : State) (data : Word) : State :=
  match s.windowInRange with
  | none => s.flagHostErr.advanceMemAddr
  | some win => (s.windowWrite win s.memAddr.toNat data).advanceMemAddr

end Sys2Proof.Machine
end

