-- ==== Sys2Proof/Machine/HostBus.lean ====
section
/-! DEFINITION. Host transactions (20_memory.md R81 to R91, 70_reset_and_hazards.md R290). -/

namespace Sys2Proof.Machine

/-- The offset of a transaction. -/
def HostTxn.off : HostTxn → BitVec 12
  | .read off _ => off
  | .write off _ _ => off

/-- An aligned full word, the only access performed (20_memory.md R82). -/
def HostTxn.alignedWord : HostTxn → Bool
  | .read off be => off.extractLsb' 0 2 == 0 && be == 0xF
  | .write off be _ => off.extractLsb' 0 2 == 0 && be == 0xF

/-- The transactions performed while a command is in flight (70_reset_and_hazards.md R290): reads of
`ID`, `STATUS` and `CTRL`, writes of `CTRL` and `STATUS`. -/
def HostTxn.allowedBusy : HostTxn → Bool
  | .read off _ => off == Reg.id.offset || off == Reg.status.offset || off == Reg.ctrl.offset
  | .write off _ _ => off == Reg.ctrl.offset || off == Reg.status.offset

/-- A transaction that is not an aligned full word (20_memory.md R82): not performed, a host error, and
a read returns 0 (also while busy, log 8). -/
def misaligned (t : HostTxn) (s : State) : State :=
  match t with
  | .read _ _ => s.flagHostErr.deliver 0
  | .write _ _ _ => s.flagHostErr

/-- An aligned transaction dropped because a command is in flight (70_reset_and_hazards.md R290): not
performed, a host error, and a read returns an unspecified value, a FREE VALUE (log 6). -/
def droppedBusy (t : HostTxn) (s : State) : State :=
  match t with
  | .read _ _ =>
    { s.flagHostErr with rdata := Config.busyReadData s.freeReads, freeReads := s.freeReads + 1 }
  | .write _ _ _ => s.flagHostErr

/-- A performed read (20_memory.md R83); reserved offsets read 0 (10_state.md R52). -/
def performRead (off : BitVec 12) (s : State) : Host.Outcome State Fault Refusal :=
  match regAt off with
  | some .memData => readMemData s
  | some r => .next (s.deliver (s.regWord r))
  | none => .next (s.deliver 0)

/-- A performed write (20_memory.md R83); reserved offsets ignore it (10_state.md R52). -/
def performWrite (off : BitVec 12) (data : Word) (s : State) : State :=
  match regAt off with
  | some .memData => writeMemData s data
  | some r => s.writeReg data r
  | none => s

/-- A performed transaction. -/
def perform (t : HostTxn) (s : State) : Host.Outcome State Fault Refusal :=
  match t with
  | .read off _ => performRead off s
  | .write off _ data => .next (performWrite off data s)

/-- One host transaction, one indivisible step of the Host (20_memory.md R81, R82, R91,
70_reset_and_hazards.md R290). -/
def hostTransaction (t : HostTxn) (s : State) : Host.Outcome State Fault Refusal :=
  if t.alignedWord = false then .next (misaligned t s)
  else if s.busy && !t.allowedBusy then .next (droppedBusy t s)
  else perform t s

end Sys2Proof.Machine
end

