-- ==== Sys2Proof/WellFormed.lean ====
section
/-! DEFINITION. Well-formed commands and configurations. -/

namespace Sys2Proof

/-- Every command is well-formed: none has an operand field that could be out of range
(30_encoding.md R121). One clause a constructor, so that a new command must say its own check. -/
def Instr.wf : Instr → Bool
  | .nop => true
  | .freq => true
  | .build => true
  | .encode => true
  | .decode => true
  | .embed => true
  | .extract => true
  | .commitTable => true

/-- The range of `MAX_TEXT_LEN` (00_scope.md R6, 93_implementation_defined.md I4). -/
def Params.textOk (p : Params) : Bool := decide (1 ≤ p.maxTextLen ∧ p.maxTextLen ≤ 2 ^ 24 - 1)

/-- The range of `MAX_PIXELS` (00_scope.md R6, 93_implementation_defined.md I5). -/
def Params.pixelsOk (p : Params) : Bool := decide (8 ≤ p.maxPixels ∧ p.maxPixels ≤ 2 ^ 30 - 1)

/-- `BASE` is 4 KiB aligned (00_scope.md R6, 93_implementation_defined.md I6).
DESIGN CHOICE (log 1, safe): a step of a configuration that fails this is refused, as with the other two. -/
def Params.baseOk (p : Params) : Bool := decide (p.base % 4096 = 0)

/-- A configuration the spec admits; a step of any other is refused (93_implementation_defined.md
I4, I5; for `BASE` log 1). -/
def Params.wf (p : Params) : Bool := p.textOk && p.pixelsOk && p.baseOk

end Sys2Proof
end

