-- ==== Sys2Proof/Machine/Engine.lean ====
section
/-! DEFINITION. The turns of the two agents and of the reset port (00_scope.md R13, R14, 46_control.md
R236, 70_reset_and_hazards.md R280). -/

namespace Sys2Proof.Machine

/-- The command the Engine runs for a latched word: the decoded command, or `ILLEGAL_COMMAND`
(46_control.md R236, R238). -/
def completeWord (w : Word) (s : State) : Host.Outcome State Fault Refusal :=
  match decode w with
  | .ok i => exec i s
  | .error _ => execIllegal w s

/-- The Engine's turn: its completion step, enabled exactly when a command is in flight and the block is
not held in reset (46_control.md R236). -/
def engineTurn (s : State) : Host.Outcome State Fault Refusal :=
  if s.rst then .next s
  else
    match s.latch with
    | none => .next s
    | some w => completeWord w s

/-- The Host's turn: transactions presented while `rst = 1` are ignored (70_reset_and_hazards.md
R280). -/
def hostTurn (t : HostTxn) (s : State) : Host.Outcome State Fault Refusal :=
  if s.rst then .next s else hostTransaction t s

/-- The level of `rst` at a clock edge: 1 resets the block, 0 lets it go (70_reset_and_hazards.md
R280). -/
def rstTurn (level : Bool) (s : State) : State :=
  if level then s.applyReset else { s with rst := false }

/-- One input. -/
def takeTurn (e : Event) (s : State) : Host.Outcome State Fault Refusal :=
  match e with
  | .host t => hostTurn t s
  | .engine => engineTurn s
  | .rst level => .next (rstTurn level s)

/-- The next input of the agenda; with none left the Engine finishes the command in flight (weak
fairness, 00_scope.md R14), and an idle block stays as it is (46_control.md R236, log 2). -/
def nextTurn (s : State) : Host.Outcome State Fault Refusal :=
  match s.agenda with
  | [] => engineTurn s
  | e :: rest => takeTurn e { s with agenda := rest }

end Sys2Proof.Machine
end

