-- ==== Sys2Proof/Machine/Step.lean ====
section
/-! DEFINITION. One step of the machine. -/

namespace Sys2Proof.Machine

/-- One step: a configuration outside its ranges is refused (93_implementation_defined.md I4, I5, log 1);
otherwise the next turn is taken. -/
def step (s : State) : Host.Outcome State Fault Refusal :=
  if s.cfg.wf then nextTurn s else .refused .configOutOfRange

/-- `s` with the command word `w` (its low `nbits` bits) issued, so that the very next step is its
completion. The block fetches nothing (10_state.md R31): a command reaches the Engine by the Host's
write of `CMD`, and this stands for that write (46_control.md R235, log 13). -/
def State.withFetchWord (s : State) (nbits w : Nat) : State :=
  { s.issue (BitVec.ofNat 32 (w % 2 ^ nbits)) with rst := false, agenda := .engine :: s.agenda }

end Sys2Proof.Machine
end

