-- ==== Sys2Proof/Safety.lean ====
section
/-! DEFINITION. The terms claims about HSC use: what a memory holds, what a committed table is, walks in
the node arena, and the invariants of the machine. -/

namespace Sys2Proof.Machine

/-- The memory holds `vs` at addresses `a, a + 1, …`. -/
abbrev Memory.holds {α : Type} (m : Memory α) (a : Nat) (vs : List α) : Prop :=
  ∀ i, (h : i < vs.length) → Memory.read m (a + i) = some vs[i]

/-- Every address `a, …, a + n - 1` is written (93_implementation_defined.md I1). -/
abbrev Memory.written {α : Type} (m : Memory α) (a n : Nat) : Prop :=
  ∀ i, i < n → (Memory.read m (a + i)).isSome = true

/-- The state after a completion that reports this code and these details: `BUSY` 0, `DONE` 1, nothing
else changed (46_control.md R236, 60_exceptions.md R252). Code 0 is a success. -/
def State.ended (s : State) (code : BitVec 4) (info0 info1 : Word) : State :=
  { s with latch := none, done := true, errCode := code, errInfo0 := info0, errInfo1 := info1 }

/-- The text operand of a command: `TEXT[0..TEXT_LEN-1]` is written and is `txt`. -/
abbrev State.textIs (s : State) (txt : List Symbol) : Prop :=
  txt.length = s.textLen.toNat ∧ Memory.holds s.text 0 txt

/-- The bitstring operand of a command: `BIT[0..BIT_LEN-1]` is written and is `input`. -/
abbrev State.bitsAre (s : State) (input : Bitstring) : Prop :=
  input.length = s.bitLen.toNat ∧ Memory.holds s.bits 0 input

/-- The codes of a text, concatenated in order (43_encoder.md R196). -/
def State.codesOf (s : State) (txt : List Symbol) : Bitstring :=
  txt.flatMap fun c => (s.entry c).string

/-- Every symbol of the text has a present entry (42_code_rom.md R171). -/
abbrev State.allPresent (s : State) (txt : List Symbol) : Prop :=
  ∀ c ∈ txt, (s.entry c).present = true

/-- No non-empty prefix of the bits is a code of the table: the greedy decoder never matches in them
(44_decoder.md R203, R204). -/
def State.noCodeIn (s : State) (frag : Bitstring) : Prop :=
  ∀ p, p ≠ [] → p <+: frag → ∀ c, (s.entry c).present = true → (s.entry c).string ≠ p

/-- The word count of the memory `MEM_SEL` selects, 0 for none (20_memory.md R85, R87). -/
def State.windowSize (s : State) : Nat :=
  match s.memSel.toNat with
  | 0 => (s.cfg.maxTextLen + 3) / 4
  | 1 => 2 ^ 19
  | 2 => (3 * s.cfg.maxPixels + 3) / 4
  | 3 => 256
  | 4 => 4096
  | 5 => 1022
  | _ => 0

/-- A performed read of a register: the idle block delivers `v` and nothing else changes
(20_memory.md R83). -/
def State.readsAs (s : State) (off : BitVec 12) (v : Word) : Prop :=
  hostTransaction (.read off 0xF) s = .next { s with rdata := v }

/-- A performed write of a register takes `s` to `t` (20_memory.md R83). -/
def State.writesAs (s : State) (off : BitVec 12) (data : Word) (t : State) : Prop :=
  hostTransaction (.write off 0xF data) s = .next t

/-- A well-formed entry: no bit at or above `LEN` (42_code_rom.md R170). -/
abbrev CodeEntry.wf (e : CodeEntry) : Prop := e.value.toNat < 2 ^ e.len.toNat

/-- The conditions (a), (b), (c) of a committed table (42_code_rom.md R173), on the code ROM alone: some
entry present, every present entry well-formed, and no present code a prefix of another or equal
to it. -/
def State.romIsPrefixCode (s : State) : Prop :=
  (∃ c, (s.entry c).present = true) ∧
  (∀ c, (s.entry c).present = true → (s.entry c).wf) ∧
  (∀ c d, c ≠ d → (s.entry c).present = true → (s.entry d).present = true →
    ¬ (s.entry c).string <+: (s.entry d).string)

/-- The number of present code-ROM entries (10_state.md R40). -/
def State.presentCount (s : State) : Nat :=
  (allSymbols.filter fun c => (s.entry c).present).length

/-- The number of symbols with a non-zero counter, `k` of 41_tree_builder.md R150. -/
def State.distinctCount (s : State) : Nat := (allSymbols.filter fun c => s.freqOf c != 0).length

/-- The sum of the frequency table. -/
def State.freqSum (s : State) : Nat := (allSymbols.map fun c => (s.freqOf c).toNat).sum

/-- Node-arena entry `h` (10_state.md R56). -/
def State.nodeAt (s : State) (h : Nat) : Node := s.node.toList.getD h Node.zero

/-- Following a bitstring from a node: "0" to the left child, "1" to the right child
(41_tree_builder.md R159); none when an edge is missing. -/
def State.walk (s : State) : Nat → Bitstring → Option Nat
  | h, [] => some h
  | h, b :: path =>
    let nd := s.nodeAt h
    if nd.kind = 0 then none
    else
      let child := if b then nd.right else nd.left
      if child = nodeNone then none else s.walk child.toNat path

/-- Node `h` has been used as a child by one of the nodes `from, …, upto - 1`
(41_tree_builder.md R156). -/
def State.usedAsChild (s : State) (h first upto : Nat) : Prop :=
  ∃ m, first ≤ m ∧ m < upto ∧ ((s.nodeAt m).left.toNat = h ∨ (s.nodeAt m).right.toNat = h)

/-- The key of node `h` is below the key of node `g` in the order of 41_tree_builder.md R155. -/
def State.keyLt (s : State) (h g : Nat) : Prop :=
  (s.nodeAt h).freq.toNat < (s.nodeAt g).freq.toNat ∨
    ((s.nodeAt h).freq.toNat = (s.nodeAt g).freq.toNat ∧ h < g)

/-- The three data memories are in canonical form and hold no address beyond their size (10_state.md R57
to R59). -/
structure State.MemoriesOk (s : State) : Prop where
  textWf : Memory.wf s.text
  bitsWf : Memory.wf s.bits
  pixWf : Memory.wf s.pix
  textWithin : Memory.within s.text s.cfg.maxTextLen
  bitsWithin : Memory.within s.bits bitMemorySize
  pixWithin : Memory.within s.pix (3 * s.cfg.maxPixels)

/-- What `STATUS.CODE_VALID = 1` means (42_code_rom.md R173), and `SYM_COUNT` then (R176). -/
structure State.CommitOk (s : State) : Prop where
  prefixCode : s.codeValid = true → s.romIsPrefixCode
  symCount : s.codeValid = true → s.symCount.toNat = s.presentCount

/-- The fields that describe the last command: all clear while one is in flight (46_control.md R235); a
legal error code, with details 0 on success (60_exceptions.md R250, 10_state.md R43, R44); a dangling
fragment exactly when `TRUNC` says so, within `2^24 - 1` bits (10_state.md R45, R46). -/
structure State.FlagsOk (s : State) : Prop where
  inFlight : s.latch.isSome = true →
    s.done = false ∧ s.trunc = false ∧ s.errCode = 0 ∧ s.errInfo0 = 0 ∧ s.errInfo1 = 0 ∧
      s.dangleStart = 0 ∧ s.dangleLen = 0
  errCode : s.errCode.toNat ≤ 8
  noError : s.errCode = 0 → s.errInfo0 = 0 ∧ s.errInfo1 = 0
  truncSuccess : s.trunc = true → s.errCode = 0
  noFragment : s.trunc = false → s.dangleStart = 0 ∧ s.dangleLen = 0
  fragment : s.trunc = true →
    1 ≤ s.dangleLen.toNat ∧ s.dangleStart.toNat + s.dangleLen.toNat ≤ maxBits

/-- The ranges of the counts a program reads (10_state.md R40 to R42). -/
structure State.CountersOk (s : State) : Prop where
  symCount : s.symCount.toNat ≤ 256
  tree : (s.nodeCount = 0 ∧ s.root = nodeNone) ∨
    (2 ≤ s.nodeCount.toNat ∧ s.nodeCount.toNat ≤ 511 ∧ s.root.toNat + 1 = s.nodeCount.toNat)

/-- While `rst = 1` the block is in the reset state (70_reset_and_hazards.md R280). -/
def State.HeldInReset (s : State) : Prop :=
  s.rst = true → s = s.applyReset

/-- The step from `s` to `t` is the completion of the command word `w` (46_control.md R236): `w` was in
flight in a block not held in reset, the turn was the Engine's, and no command is in flight after it. -/
def State.completes (s : State) (w : Word) (t : State) : Prop :=
  s.rst = false ∧ s.latch = some w ∧ t.latch = none ∧
    (s.agenda = [] ∨ ∃ rest, s.agenda = .engine :: rest)

/-- The next input is a `MEM_DATA` write that is performed and in range, to the memory `sel`
(20_memory.md R84, R86, R87). -/
def State.writesWindow (s : State) (sel : BitVec 3) : Prop :=
  s.rst = false ∧ s.latch = none ∧ s.memSel = sel ∧ s.memAddr.toNat < s.windowSize ∧
    ∃ data rest, s.agenda = .host (.write 0x048 0xF data) :: rest

/-- The next input is `rst = 1` at a clock edge (70_reset_and_hazards.md R280). -/
def State.resets (s : State) : Prop := ∃ rest, s.agenda = .rst true :: rest

/-- The invariant of the machine. -/
structure State.Inv (s : State) : Prop where
  config : s.cfg.wf = true
  memories : s.MemoriesOk
  commit : s.CommitOk
  flags : s.FlagsOk
  counters : s.CountersOk
  held : s.HeldInReset

end Sys2Proof.Machine
end

