-- ==== Sys2Proof/Certificates/Slice0/Obligations.lean ====
section
/-! DEFINITION. The statements about HSC for the provers. Each docstring names the rule of spec/ it
formalises. `s.ended code i0 i1` is `s` after a completion with that code and those details, nothing else
changed, so a conclusion `exec i s = .next (…)` says the result and the frame at once. -/

section
open Sys2Proof Sys2Proof.Machine

/-! ### Encoding (30_encoding.md) -/

/-- Decode and encode agree: the word of every command decodes to that command (R122), and a word decodes
to a command only if it is that command's word. -/
def Obligations.DecodeAndEncodeAgree : Prop :=
  (∀ i : Instr, i.wf = true → decode (encode i) = .ok i) ∧
  ∀ (w : Word) (i : Instr), decode w = .ok i → w = encode i

/-- Every word has one verdict: legal exactly when it is 0 to 7, illegal when a bit of [31:4] is set or
the opcode is 0x8 to 0xF (R123, R124). -/
def Obligations.LegalWordsAreZeroToSeven : Prop :=
  ∀ w : Word, ((∃ i, decode w = .ok i) ↔ w.toNat ≤ 7) ∧
    ((∃ r, decode w = .error r) ↔ (w.extractLsb' 4 28 ≠ 0 ∨ 8 ≤ (w.extractLsb' 0 4).toNat))

/-- The opcode map (R122), word by word. -/
def Obligations.OpcodeMapWords : Prop :=
  decode 0x00000000 = .ok .nop ∧ decode 0x00000001 = .ok .freq ∧ decode 0x00000002 = .ok .build ∧
  decode 0x00000003 = .ok .encode ∧ decode 0x00000004 = .ok .decode ∧ decode 0x00000005 = .ok .embed ∧
  decode 0x00000006 = .ok .extract ∧ decode 0x00000007 = .ok .commitTable

/-! ### Steps, issue, completion (46_control.md, 70_reset_and_hazards.md) -/

/-- A step runs the decoded command: when the Engine's turn comes (its entry heads the agenda, or the
agenda is empty) and the latched word decodes to `i`, the step is exec of `i`, the agenda moved on
(R236). That these are the Engine's turns is the model's choice (log 2). -/
def Obligations.StepRunsTheLatchedCommand : Prop :=
  ∀ (s : State) (w : Word) (i : Instr), s.cfg.wf = true → s.rst = false → s.latch = some w →
    decode w = .ok i → i.wf = true →
    (∀ rest, s.agenda = .engine :: rest → step s = exec i { s with agenda := rest }) ∧
    (s.agenda = [] → step s = exec i s)

/-- An illegal word completes with ILLEGAL_COMMAND, the whole word as detail, and changes nothing else
(R238), when the Engine's turn heads the agenda and when no input is left. That these are the Engine's turns
is the model's choice (log 2). -/
def Obligations.IllegalWordCompletesWithIllegalCommand : Prop :=
  ∀ (s : State) (w : Word), s.cfg.wf = true → s.rst = false → s.latch = some w →
    (w.extractLsb' 4 28 ≠ 0 ∨ 8 ≤ w.toNat) →
    (∀ rest, s.agenda = .engine :: rest → step s = .next { s.ended 6 w 0 with agenda := rest }) ∧
    (s.agenda = [] → step s = .next (s.ended 6 w 0))

/-- A presented transaction is one step of the Host; while `rst = 1` it is ignored (R280). The agenda that
presents it is the model's choice (log 2). -/
def Obligations.StepPresentsTheTransaction : Prop :=
  ∀ (s : State) (t : HostTxn) (rest : List Event), s.cfg.wf = true → s.agenda = .host t :: rest →
    (s.rst = false → step s = hostTransaction t { s with agenda := rest }) ∧
    (s.rst = true → step s = .next { s with agenda := rest })

/-- `rst = 1` at a clock edge: every register, table and memory goes to its reset value, whatever was in
flight (R280, R281). That the inputs to come, what the host was last given and the count of free values stay,
and that `rst` is a field, is the model's choice (logs 2, 3, 5, 6). -/
def Obligations.ResetInputResetsTheBlock : Prop :=
  ∀ (s : State) (rest : List Event), s.cfg.wf = true → s.agenda = .rst true :: rest →
    ∃ t, step s = .next t ∧ t.rst = true ∧ t.agenda = rest ∧ t.cfg = s.cfg ∧ t.rdata = s.rdata ∧
      t.freeReads = s.freeReads ∧
      { t with rst := false, agenda := [], rdata := 0, freeReads := 0 } = State.resetWith s.cfg

/-- The reset state (10_state.md R63): every register field at its reset value, the tables zero, nothing
in flight, the data memories unwritten. -/
def Obligations.ResetStateValues : Prop :=
  ∀ cfg : Params, let s := State.resetWith cfg
    s.cfg = cfg ∧ s.latch = none ∧ s.statusWord = 0 ∧ s.ctrlWord = 0 ∧ s.irq = false ∧
    s.textLen = 0 ∧ s.bitLen = 0 ∧ s.pixCount = 0 ∧ s.symCount = 0 ∧ s.nodeCount = 0 ∧
    s.root = 0x1FF ∧ s.errInfo0 = 0 ∧ s.errInfo1 = 0 ∧ s.dangleStart = 0 ∧ s.dangleLen = 0 ∧
    s.memSel = 0 ∧ s.memAddr = 0 ∧
    s.regWord .id = 0x48554646 ∧ s.regWord .capText = (BitVec.ofNat 24 cfg.maxTextLen).setWidth 32 ∧
    s.regWord .capPixels = (BitVec.ofNat 30 cfg.maxPixels).setWidth 32 ∧
    (∀ c, s.freqOf c = 0) ∧ (∀ c, (s.entry c).len = 0 ∧ (s.entry c).value = 0) ∧
    (∀ h, s.nodeAt h = { kind := 0, freq := 0, sym := 0, left := 0, right := 0 }) ∧
    (∀ a, Memory.read s.text a = none ∧ Memory.read s.bits a = none ∧ Memory.read s.pix a = none)

/-- The Engine's turn, at the head of the agenda or when no input is left: an idle block and a block held
in reset stay as they are; of a running block no command is left in flight (R236: "the Engine has no enabled
step until the next issue", "every issued command completes"). That these are the Engine's turns is the
model's choice (log 2). The release from reset lowers `rst` and changes nothing else (R280, log 3). -/
def Obligations.EngineStepsOnlyWhenBusy : Prop :=
  ∀ s : State, s.cfg.wf = true →
    (s.agenda = [] →
      (s.latch = none ∨ s.rst = true → step s = .next s) ∧
      (s.rst = false → ∀ t, step s = .next t → t.latch = none)) ∧
    (∀ rest, s.agenda = .engine :: rest →
      (s.latch = none ∨ s.rst = true → step s = .next { s with agenda := rest }) ∧
      (s.rst = false → ∀ t, step s = .next t → t.latch = none)) ∧
    (∀ rest, s.agenda = .rst false :: rest → step s = .next { s with agenda := rest, rst := false })

/-- A configuration outside its ranges is refused: `MAX_TEXT_LEN` and `MAX_PIXELS` as
93_implementation_defined.md I4 and I5 say. That an unaligned `BASE` is refused too is the model's choice
(log 1): I6 only makes `BASE` a parameter. -/
def Obligations.BadConfigurationIsRefused : Prop :=
  ∀ s : State, (s.cfg.maxTextLen < 1 ∨ 2 ^ 24 ≤ s.cfg.maxTextLen ∨ s.cfg.maxPixels < 8 ∨
    2 ^ 30 ≤ s.cfg.maxPixels ∨ s.cfg.base % 4096 ≠ 0) → step s = .refused .configOutOfRange

/-- A write of `CMD` while idle issues the word, legal or not: it is latched, and the fields that describe
the last command are cleared; nothing else changes. While busy it issues nothing and the command in
flight is not affected (R235). -/
def Obligations.CmdWriteIssuesTheWord : Prop :=
  ∀ (s : State) (w : Word),
    (s.latch = none → s.writesAs 0x004 w { s with
      latch := some w, done := false, trunc := false, errCode := 0, errInfo0 := 0, errInfo1 := 0
      dangleStart := 0, dangleLen := 0 }) ∧
    (s.latch.isSome = true → s.writesAs 0x004 w { s with hostErr := true })

/-- NOP does nothing but complete; from its issue on, the flags and details of the last command are clear
and `CODE_VALID` and `HOST_ERR` are left alone (R237). -/
def Obligations.NopOnlyCompletes : Prop :=
  ∀ s : State, exec .nop s = .next (s.ended 0 0 0) ∧
    exec .nop (s.issue 0) = .next { s with
      latch := none, done := true, trunc := false, errCode := 0, errInfo0 := 0, errInfo1 := 0
      dangleStart := 0, dangleLen := 0 }

/-- A command that completes with an error changes the error and completion fields and nothing else
(60_exceptions.md R252, R253). -/
def Obligations.ErrorChangesOnlyErrorFields : Prop :=
  ∀ (i : Instr) (s t : State), exec i s = .next t → t.errCode ≠ 0 →
    t = s.ended t.errCode t.errInfo0 t.errInfo1

/-- What each command may write, of everything in the state (30_encoding.md R121): every field outside a
command's row is unchanged, the block is idle and `DONE` is set. -/
def Obligations.CommandsWriteOnlyTheirOperands : Prop :=
  ∀ (i : Instr) (s t : State), exec i s = .next t →
    t.latch = none ∧ t.done = true ∧
    t.cfg = s.cfg ∧ t.agenda = s.agenda ∧ t.rst = s.rst ∧ t.rdata = s.rdata ∧
    t.freeReads = s.freeReads ∧ t.hostErr = s.hostErr ∧ t.irqEn = s.irqEn ∧
    t.pixCount = s.pixCount ∧ t.memSel = s.memSel ∧ t.memAddr = s.memAddr ∧
    (i ≠ .freq → t.freq = s.freq) ∧
    (i ≠ .build → t.node = s.node ∧ t.nodeCount = s.nodeCount ∧ t.root = s.root ∧ t.rom = s.rom) ∧
    (i ≠ .build → i ≠ .commitTable → t.symCount = s.symCount ∧ t.codeValid = s.codeValid) ∧
    (i ≠ .encode → i ≠ .extract → t.bits = s.bits ∧ t.bitLen = s.bitLen) ∧
    (i ≠ .decode → t.text = s.text ∧ t.textLen = s.textLen ∧ t.trunc = s.trunc ∧
      t.dangleStart = s.dangleStart ∧ t.dangleLen = s.dangleLen) ∧
    (i ≠ .embed → t.pix = s.pix)

/-- The interrupt output follows `DONE` and `IRQ_EN`: a completion raises it exactly when it is enabled,
the next issue and a write of 1 to `STATUS[1]` lower it (60_exceptions.md R261, R262). -/
def Obligations.InterruptFollowsDone : Prop :=
  (∀ (i : Instr) (s t : State), exec i s = .next t → t.irq = s.irqEn) ∧
  (∀ (s t : State) (w : Word), s.latch = none → hostTransaction (.write 0x004 0xF w) s = .next t →
    t.irq = false) ∧
  (∀ (s t : State) (w : Word), w.getLsbD 1 = true →
    hostTransaction (.write 0x008 0xF w) s = .next t → t.irq = false)

/-! ### Host interface (20_memory.md, 10_state.md) -/

/-- A transaction that is not an aligned full word is not performed: a host error, a read gives 0, a
write stores nothing (R82). That the read gives 0 also while a command is in flight, where R290 says
"unspecified", is the model's reading (log 8). -/
def Obligations.MisalignedAccessIsNotPerformed : Prop :=
  ∀ (s : State) (off : BitVec 12) (be : BitVec 4) (data : Word), (off.toNat % 4 ≠ 0 ∨ be ≠ 0xF) →
    hostTransaction (.read off be) s = .next { s with hostErr := true, rdata := 0 } ∧
    hostTransaction (.write off be data) s = .next { s with hostErr := true }

/-- While a command is in flight the block performs only aligned reads of `ID`, `STATUS` and `CTRL` and
writes of `CTRL` and `STATUS`. Any other transaction is dropped: a write changes nothing but `HOST_ERR`;
a read gives an unspecified value, flags `HOST_ERR` and does not advance `MEM_ADDR`
(70_reset_and_hazards.md R290). `freeReads` is the model's count of unspecified values (log 6). -/
def Obligations.BusyBlockDropsOtherAccesses : Prop :=
  ∀ (s : State) (off : BitVec 12) (be : BitVec 4) (data : Word), s.latch.isSome = true →
    (¬ (be = 0xF ∧ (off = 0x00C ∨ off = 0x008)) →
      hostTransaction (.write off be data) s = .next { s with hostErr := true }) ∧
    (¬ (be = 0xF ∧ (off = 0x000 ∨ off = 0x008 ∨ off = 0x00C)) →
      ∃ v n, hostTransaction (.read off be) s =
        .next { s with hostErr := true, rdata := v, freeReads := n }) ∧
    s.readsAs 0x000 0x48554646 ∧ s.readsAs 0x008 s.statusWord ∧ s.readsAs 0x00C s.ctrlWord ∧
    s.writesAs 0x00C data { s with irqEn := data.getLsbD 0 } ∧
    s.writesAs 0x008 data
      { s with done := s.done && !data.getLsbD 1, hostErr := s.hostErr && !data.getLsbD 4 }

/-- The fields of `STATUS` and `CTRL` (10_state.md R35, R36): each at its place, reserved bits 0. -/
def Obligations.StatusAndControlLayout : Prop :=
  ∀ s : State,
    s.statusWord.getLsbD 0 = s.latch.isSome ∧ s.statusWord.getLsbD 1 = s.done ∧
    s.statusWord.getLsbD 2 = s.trunc ∧ s.statusWord.getLsbD 3 = s.codeValid ∧
    s.statusWord.getLsbD 4 = s.hostErr ∧ s.statusWord.extractLsb' 5 3 = 0 ∧
    s.statusWord.extractLsb' 8 4 = s.errCode ∧ s.statusWord.extractLsb' 12 20 = 0 ∧
    s.ctrlWord.getLsbD 0 = s.irqEn ∧ s.ctrlWord.extractLsb' 1 31 = 0

/-- What an idle block answers to a read of each register (10_state.md R32 to R50), reserved offsets
among them (R52); no such read changes anything else (20_memory.md R90). -/
def Obligations.IdleRegisterReads : Prop :=
  ∀ s : State, s.latch = none →
    s.readsAs 0x000 0x48554646 ∧ s.readsAs 0x004 0 ∧ s.readsAs 0x008 s.statusWord ∧
    s.readsAs 0x00C s.ctrlWord ∧ s.readsAs 0x010 (s.textLen.setWidth 32) ∧
    s.readsAs 0x014 (s.bitLen.setWidth 32) ∧ s.readsAs 0x018 (s.pixCount.setWidth 32) ∧
    s.readsAs 0x01C (s.symCount.setWidth 32) ∧ s.readsAs 0x020 (s.nodeCount.setWidth 32) ∧
    s.readsAs 0x024 (s.root.setWidth 32) ∧ s.readsAs 0x028 s.errInfo0 ∧
    s.readsAs 0x02C s.errInfo1 ∧ s.readsAs 0x030 (s.dangleStart.setWidth 32) ∧
    s.readsAs 0x034 (s.dangleLen.setWidth 32) ∧
    (s.cfg.wf = true → s.readsAs 0x038 (BitVec.ofNat 32 s.cfg.maxTextLen) ∧
      s.readsAs 0x03C (BitVec.ofNat 32 s.cfg.maxPixels)) ∧
    s.readsAs 0x040 (s.memSel.setWidth 32) ∧ s.readsAs 0x044 s.memAddr ∧
    (∀ off : BitVec 12, 0x04C ≤ off.toNat → off.toNat % 4 = 0 → s.readsAs off 0)

/-- What a write of each register other than `CMD` and `MEM_DATA` does to an idle block: read-write
fields are stored and the bits beyond them dropped, `STATUS` is write-1-to-clear, read-only registers
and reserved offsets ignore it, and none is a host error (20_memory.md R83, 10_state.md R52). -/
def Obligations.IdleRegisterWrites : Prop :=
  ∀ (s : State) (data : Word), s.latch = none →
    s.writesAs 0x008 data
      { s with done := s.done && !data.getLsbD 1, hostErr := s.hostErr && !data.getLsbD 4 } ∧
    s.writesAs 0x00C data { s with irqEn := data.getLsbD 0 } ∧
    s.writesAs 0x010 data { s with textLen := data.extractLsb' 0 24 } ∧
    s.writesAs 0x014 data { s with bitLen := data.extractLsb' 0 24 } ∧
    s.writesAs 0x018 data { s with pixCount := data.extractLsb' 0 30 } ∧
    s.writesAs 0x040 data { s with memSel := data.extractLsb' 0 3 } ∧
    s.writesAs 0x044 data { s with memAddr := data } ∧
    (∀ off : BitVec 12, off = 0x000 ∨ (0x01C ≤ off.toNat ∧ off.toNat ≤ 0x03C) ∨ 0x04C ≤ off.toNat →
      off.toNat % 4 = 0 → s.writesAs off data s)

/-- A window access out of range is performed: no store, a read gives 0, both flag a host error and
advance `MEM_ADDR` (20_memory.md R87). -/
def Obligations.WindowOutOfRange : Prop :=
  ∀ (s : State) (data : Word), s.latch = none → s.windowSize ≤ s.memAddr.toNat →
    hostTransaction (.read 0x048 0xF) s =
      .next { s with hostErr := true, rdata := 0, memAddr := s.memAddr + 1 } ∧
    hostTransaction (.write 0x048 0xF data) s =
      .next { s with hostErr := true, memAddr := s.memAddr + 1 }

/-- Reading a word of text, bit or pixel memory: byte `j` is byte `4w + j` of the memory, or 0 beyond its
size; bit `b` is bit `32w + b`. `MEM_ADDR` advances (20_memory.md R84, R85). -/
def Obligations.WindowReadsDataMemories : Prop :=
  ∀ (s : State) (b : Fin 4 → Byte) (v : Word), s.latch = none → s.memAddr.toNat < s.windowSize →
    (s.memSel = 0 →
      (∀ j : Fin 4, 4 * s.memAddr.toNat + j < s.cfg.maxTextLen →
        Memory.read s.text (4 * s.memAddr.toNat + j) = some (b j)) →
      (∀ j : Fin 4, s.cfg.maxTextLen ≤ 4 * s.memAddr.toNat + j → b j = 0) →
      hostTransaction (.read 0x048 0xF) s =
        .next { s with rdata := b 3 ++ b 2 ++ b 1 ++ b 0, memAddr := s.memAddr + 1 }) ∧
    (s.memSel = 1 →
      (∀ j, j < 32 → Memory.read s.bits (32 * s.memAddr.toNat + j) = some (v.getLsbD j)) →
      hostTransaction (.read 0x048 0xF) s =
        .next { s with rdata := v, memAddr := s.memAddr + 1 }) ∧
    (s.memSel = 2 →
      (∀ j : Fin 4, 4 * s.memAddr.toNat + j < 3 * s.cfg.maxPixels →
        Memory.read s.pix (4 * s.memAddr.toNat + j) = some (b j)) →
      (∀ j : Fin 4, 3 * s.cfg.maxPixels ≤ 4 * s.memAddr.toNat + j → b j = 0) →
      hostTransaction (.read 0x048 0xF) s =
        .next { s with rdata := b 3 ++ b 2 ++ b 1 ++ b 0, memAddr := s.memAddr + 1 })

/-- Reading a word of a table: the frequency table, the code ROM (`LEN`, eight words of `CODEVAL`, zeros)
and the node arena (`FREQ`, then the packed fields) (20_memory.md R85). -/
def Obligations.WindowReadsTables : Prop :=
  ∀ s : State, s.latch = none →
    let got (v : Word) : Prop := hostTransaction (.read 0x048 0xF) s =
      .next { s with rdata := v, memAddr := s.memAddr + 1 }
    (s.memSel = 3 → ∀ c : Symbol, s.memAddr.toNat = c.toNat → got ((s.freqOf c).setWidth 32)) ∧
    (s.memSel = 4 → ∀ (c : Symbol) (m : Nat), m < 16 → s.memAddr.toNat = 16 * c.toNat + m →
      got (if m = 0 then (s.entry c).len.setWidth 32
        else if m ≤ 8 then (s.entry c).value.extractLsb' (32 * (m - 1)) 32 else 0)) ∧
    (s.memSel = 5 → ∀ n, n < 511 →
      (s.memAddr.toNat = 2 * n → got (s.nodeAt n).freq) ∧
      (s.memAddr.toNat = 2 * n + 1 → got ((s.nodeAt n).kind ++ 0#5 ++ (s.nodeAt n).sym ++
        (s.nodeAt n).right ++ (s.nodeAt n).left)))

/-- A performed window read of a byte or bit nothing has written stops the model
(93_implementation_defined.md I1). That the stop names the first such location of the word is the model's
choice (log 9). -/
def Obligations.WindowReadOfUnwrittenFaults : Prop :=
  ∀ (s : State) (j : Nat), s.latch = none →
    (s.memSel = 0 → j < 4 → 4 * s.memAddr.toNat + j < s.cfg.maxTextLen →
      Memory.written s.text (4 * s.memAddr.toNat) j →
      Memory.read s.text (4 * s.memAddr.toNat + j) = none →
      hostTransaction (.read 0x048 0xF) s = .fault (.unwrittenText (4 * s.memAddr.toNat + j))) ∧
    (s.memSel = 1 → j < 32 → s.memAddr.toNat < 2 ^ 19 →
      Memory.written s.bits (32 * s.memAddr.toNat) j →
      Memory.read s.bits (32 * s.memAddr.toNat + j) = none →
      hostTransaction (.read 0x048 0xF) s = .fault (.unwrittenBit (32 * s.memAddr.toNat + j))) ∧
    (s.memSel = 2 → j < 4 → 4 * s.memAddr.toNat + j < 3 * s.cfg.maxPixels →
      Memory.written s.pix (4 * s.memAddr.toNat) j →
      Memory.read s.pix (4 * s.memAddr.toNat + j) = none →
      hostTransaction (.read 0x048 0xF) s = .fault (.unwrittenPixel (4 * s.memAddr.toNat + j)))

/-- Writing a text, bit or pixel word stores every byte or bit of the word that the memory has, and no
other; `MEM_ADDR` advances (20_memory.md R86). -/
def Obligations.WindowWritesDataMemories : Prop :=
  ∀ (s : State) (data : Word), s.latch = none → s.memAddr.toNat < s.windowSize →
    (s.memSel = 0 → ∃ mem,
      hostTransaction (.write 0x048 0xF data) s =
        .next { s with text := mem, memAddr := s.memAddr + 1 } ∧
      ∀ a, Memory.read mem a =
        if 4 * s.memAddr.toNat ≤ a ∧ a < 4 * s.memAddr.toNat + 4 ∧ a < s.cfg.maxTextLen then
          some (data.extractLsb' (8 * (a - 4 * s.memAddr.toNat)) 8)
        else Memory.read s.text a) ∧
    (s.memSel = 1 → ∃ mem,
      hostTransaction (.write 0x048 0xF data) s =
        .next { s with bits := mem, memAddr := s.memAddr + 1 } ∧
      ∀ a, Memory.read mem a =
        if 32 * s.memAddr.toNat ≤ a ∧ a < 32 * s.memAddr.toNat + 32 then
          some (data.getLsbD (a - 32 * s.memAddr.toNat))
        else Memory.read s.bits a) ∧
    (s.memSel = 2 → ∃ mem,
      hostTransaction (.write 0x048 0xF data) s =
        .next { s with pix := mem, memAddr := s.memAddr + 1 } ∧
      ∀ a, Memory.read mem a =
        if 4 * s.memAddr.toNat ≤ a ∧ a < 4 * s.memAddr.toNat + 4 ∧ a < 3 * s.cfg.maxPixels then
          some (data.extractLsb' (8 * (a - 4 * s.memAddr.toNat)) 8)
        else Memory.read s.pix a)

/-- Writing a word of a table: the low 24 bits into one counter; a word of one code-ROM entry, which
always withdraws the commit; nothing into the node arena but a host error (20_memory.md R86,
42_code_rom.md R172). -/
def Obligations.WindowWritesTables : Prop :=
  ∀ (s : State) (data : Word), s.latch = none →
    (s.memSel = 3 → ∀ c : Symbol, s.memAddr.toNat = c.toNat → ∃ t,
      hostTransaction (.write 0x048 0xF data) s = .next t ∧
      t = { s with freq := t.freq, memAddr := s.memAddr + 1 } ∧
      ∀ d, t.freqOf d = if d = c then data.extractLsb' 0 24 else s.freqOf d) ∧
    (s.memSel = 4 → ∀ (c : Symbol) (m : Nat), m < 16 → s.memAddr.toNat = 16 * c.toNat + m → ∃ t,
      hostTransaction (.write 0x048 0xF data) s = .next t ∧
      t = { s with rom := t.rom, codeValid := false, memAddr := s.memAddr + 1 } ∧
      (∀ d, d ≠ c → t.entry d = s.entry d) ∧
      (t.entry c).len = (if m = 0 then data.extractLsb' 0 8 else (s.entry c).len) ∧
      ∀ i, (t.entry c).value.getLsbD i =
        if 1 ≤ m ∧ m ≤ 8 ∧ 32 * (m - 1) ≤ i ∧ i < 32 * (m - 1) + 32 then
          data.getLsbD (i - 32 * (m - 1))
        else (s.entry c).value.getLsbD i) ∧
    (s.memSel = 5 → s.memAddr.toNat < 1022 →
      hostTransaction (.write 0x048 0xF data) s =
        .next { s with hostErr := true, memAddr := s.memAddr + 1 })

/-! ### FREQ (40_frequency_table.md) -/

/-- A successful FREQ writes, for every symbol, the number of positions that hold it; the counts sum to
the length (R143 marks the sum as its own inference); nothing else changes (R144). -/
def Obligations.FreqCountsEverySymbol : Prop :=
  ∀ (s : State) (txt : List Symbol), s.textIs txt → 1 ≤ txt.length →
    txt.length ≤ s.cfg.maxTextLen →
    ∃ t, exec .freq s = .next t ∧ t = { s.ended 0 0 0 with freq := t.freq } ∧
      (∀ c, (t.freqOf c).toNat = txt.count c) ∧ t.freqSum = txt.length

/-- FREQ raises PARAMETER on a text longer than the memory, before any other check (R141), and
EMPTY_INPUT on an empty text (R142). -/
def Obligations.FreqRaisesItsErrors : Prop :=
  ∀ s : State,
    (s.cfg.maxTextLen < s.textLen.toNat →
      exec .freq s =
        .next (s.ended 7 (s.textLen.setWidth 32) (BitVec.ofNat 32 s.cfg.maxTextLen))) ∧
    (s.textLen = 0 → exec .freq s = .next (s.ended 1 0 0))

/-- A command that reads an unwritten location of its operand stops the model, at the first such location
(93_implementation_defined.md I1): the text of FREQ and ENCODE, the bitstring of DECODE and EMBED, the pixel
bytes of EMBED, header and payload of EXTRACT. Which location is named when there are several, and that EMBED
reads its bitstring before the pixels, are the model's choices (log 9). -/
def Obligations.CommandsFaultOnUnwrittenOperands : Prop :=
  ∀ (s : State) (i : Nat),
    (s.textLen.toNat ≤ s.cfg.maxTextLen → i < s.textLen.toNat → Memory.written s.text 0 i →
      Memory.read s.text i = none →
      exec .freq s = .fault (.unwrittenText i) ∧
      ((∀ j, j < i → ∀ c, Memory.read s.text j = some c →
        s.codeValid = true ∧ (s.entry c).present = true) →
        exec .encode s = .fault (.unwrittenText i))) ∧
    (i < s.bitLen.toNat → Memory.written s.bits 0 i → Memory.read s.bits i = none →
      (s.codeValid = true → exec .decode s = .fault (.unwrittenBit i)) ∧
      (s.pixCount.toNat ≤ s.cfg.maxPixels → 24 + s.bitLen.toNat ≤ 3 * s.pixCount.toNat →
        exec .embed s = .fault (.unwrittenBit i))) ∧
    (s.pixCount.toNat ≤ s.cfg.maxPixels → Memory.written s.pix 0 i → Memory.read s.pix i = none →
      (24 + s.bitLen.toNat ≤ 3 * s.pixCount.toNat → i < 24 + s.bitLen.toNat →
        Memory.written s.bits 0 s.bitLen.toNat → exec .embed s = .fault (.unwrittenPixel i)) ∧
      (24 ≤ 3 * s.pixCount.toNat → i < 24 → exec .extract s = .fault (.unwrittenPixel i)) ∧
      (∀ (header : List Byte) (len : Nat), header.length = 24 → Memory.holds s.pix 0 header →
        len = ((List.range 24).map fun k =>
          ((header.getD k 0).getLsbD 0).toNat * 2 ^ (23 - k)).sum →
        24 + len ≤ 3 * s.pixCount.toNat → 24 ≤ i → i < 24 + len →
        exec .extract s = .fault (.unwrittenPixel i)))

/-! ### BUILD (41_tree_builder.md) -/

/-- BUILD raises EMPTY_INPUT when no counter is non-zero (R152). -/
def Obligations.BuildRaisesEmptyInput : Prop :=
  ∀ s : State, (∀ c, s.freqOf c = 0) → exec .build s = .next (s.ended 1 0 0)

/-- A successful BUILD writes the arena, its counts, the code ROM, `SYM_COUNT` and `CODE_VALID`, and
nothing else (R163, R161). -/
def Obligations.BuildCompletes : Prop :=
  ∀ s : State, (∃ c, s.freqOf c ≠ 0) →
    ∃ t, exec .build s = .next t ∧
      t = { s.ended 0 0 0 with
        node := t.node, nodeCount := t.nodeCount, root := t.root, rom := t.rom
        symCount := t.symCount, codeValid := true } ∧
      t.symCount.toNat = s.distinctCount

/-- The root and the number of entries: `2k - 2` and `2k - 1` for `k ≥ 2` symbols, 1 and 2 for one; the
root's frequency is the sum of the table (R157, which marks these formulas as its own inference). -/
def Obligations.BuildRootAndCount : Prop :=
  ∀ (s t : State), 1 ≤ s.distinctCount → exec .build s = .next t →
    (2 ≤ s.distinctCount →
      t.root.toNat = 2 * s.distinctCount - 2 ∧ t.nodeCount.toNat = 2 * s.distinctCount - 1) ∧
    (s.distinctCount = 1 → t.root.toNat = 1 ∧ t.nodeCount.toNat = 2) ∧
    (t.nodeAt t.root.toNat).freq.toNat = s.freqSum

/-- The leaves: handle `j` is the `j`-th smallest present symbol with its counter (R153), and the entries
from `NODE_COUNT` on are zero (R158). -/
def Obligations.BuildLeavesAndUnusedEntries : Prop :=
  ∀ (s t : State), 1 ≤ s.distinctCount → exec .build s = .next t →
    (∀ j c, (allSymbols.filter fun c => s.freqOf c != 0)[j]? = some c →
      t.nodeAt j = { kind := 0, freq := (s.freqOf c).setWidth 32, sym := c
                     left := 0x1FF, right := 0x1FF }) ∧
    (∀ h, t.nodeCount.toNat ≤ h →
      t.nodeAt h = { kind := 0, freq := 0, sym := 0, left := 0, right := 0 })

/-- The single-symbol case: the leaf at handle 0 under a synthesized root at handle 1, code "0"
(R154). -/
def Obligations.BuildSingleSymbol : Prop :=
  ∀ (s : State) (c : Symbol), (∀ d, s.freqOf d ≠ 0 ↔ d = c) →
    ∃ t, exec .build s = .next t ∧ t.root = 1 ∧ t.nodeCount = 2 ∧ t.symCount = 1 ∧
      t.nodeAt 0 = { kind := 0, freq := (s.freqOf c).setWidth 32, sym := c
                     left := 0x1FF, right := 0x1FF } ∧
      t.nodeAt 1 = { kind := 1, freq := (s.freqOf c).setWidth 32, sym := 0
                     left := 0, right := 0x1FF } ∧
      t.entry c = { len := 1, value := 0 }

/-- Every merge takes the two least keys that remain: internal node `n` has as left child the least node
not yet used, as right child the next, and as frequency their sum (R155, R156). -/
def Obligations.BuildMergesTheTwoLeast : Prop :=
  ∀ (s t : State), 2 ≤ s.distinctCount → exec .build s = .next t →
    ∀ n, s.distinctCount ≤ n → n < 2 * s.distinctCount - 1 →
      ∃ a b, a < n ∧ b < n ∧
        (t.nodeAt n).kind = 1 ∧ (t.nodeAt n).sym = 0 ∧
        (t.nodeAt n).left.toNat = a ∧ (t.nodeAt n).right.toNat = b ∧
        (t.nodeAt n).freq.toNat = (t.nodeAt a).freq.toNat + (t.nodeAt b).freq.toNat ∧
        ¬ t.usedAsChild a s.distinctCount n ∧ ¬ t.usedAsChild b s.distinctCount n ∧
        t.keyLt a b ∧
        ∀ h, h < n → h ≠ a → h ≠ b → ¬ t.usedAsChild h s.distinctCount n → t.keyLt b h

/-- The code of every present symbol is its path from the root, "0" left and "1" right, of length 1 to
255; every other entry is zero (R159 to R161, R151). -/
def Obligations.BuildCodesAreTreePaths : Prop :=
  ∀ (s t : State), 1 ≤ s.distinctCount → exec .build s = .next t →
    ∀ c, (s.freqOf c = 0 → t.entry c = { len := 0, value := 0 }) ∧
      (s.freqOf c ≠ 0 →
        1 ≤ (t.entry c).len.toNat ∧ (t.entry c).wf ∧
        ∃ x, t.walk t.root.toNat (t.entry c).string = some x ∧
          (t.nodeAt x).kind = 0 ∧ (t.nodeAt x).sym = c)

/-- The table BUILD writes is a prefix code (R164 a, b, d), so COMMIT_TABLE accepts it (R164 e); R164 is
the spec's own inference from R159 and R161. -/
def Obligations.BuildTableIsPrefixFree : Prop :=
  ∀ (s t : State), 1 ≤ s.distinctCount → exec .build s = .next t →
    t.romIsPrefixCode ∧ exec .commitTable t = .next (t.ended 0 0 0)

/-- The table BUILD writes is complete: the sum of `2^(-LEN)` over its codes is 1 for two or more
symbols and 1/2 for one (R164 c, the spec's own inference); here multiplied by `2^256`. -/
def Obligations.BuildTableIsComplete : Prop :=
  ∀ (s t : State), 1 ≤ s.distinctCount → exec .build s = .next t →
    ((allSymbols.filter fun c => (t.entry c).present).map
      fun c => 2 ^ (256 - (t.entry c).len.toNat)).sum =
        if s.distinctCount = 1 then 2 ^ 255 else 2 ^ 256

/-! ### COMMIT_TABLE (42_code_rom.md) -/

/-- COMMIT_TABLE commits exactly the tables with (a), (b), (c) of R173, and counts their entries; any
other table raises TABLE_FORMAT (R175). -/
def Obligations.CommitAcceptsExactlyPrefixCodes : Prop :=
  ∀ s : State,
    (s.romIsPrefixCode → exec .commitTable s = .next { s.ended 0 0 0 with
      codeValid := true, symCount := BitVec.ofNat 9 s.presentCount }) ∧
    (¬ s.romIsPrefixCode → ∃ i0 i1, exec .commitTable s = .next (s.ended 8 i0 i1))

/-- The reason COMMIT_TABLE reports: 1 for no entry, 2 for the lowest symbol with stray bits, 3 for the
first pair of which one code is a prefix of, or equal to, the other (R174). -/
def Obligations.CommitReportsTheFirstFailure : Prop :=
  ∀ s : State,
    ((∀ c, (s.entry c).present = false) → exec .commitTable s = .next (s.ended 8 1 0)) ∧
    (∀ c, (s.entry c).present = true → ¬ (s.entry c).wf →
      (∀ d, d.toNat < c.toNat → (s.entry d).present = true → (s.entry d).wf) →
      exec .commitTable s = .next (s.ended 8 2 (c.setWidth 32))) ∧
    ((∀ c, (s.entry c).present = true → (s.entry c).wf) →
      ∀ c d, (s.entry c).present = true → (s.entry d).present = true → c ≠ d →
        (s.entry c).string <+: (s.entry d).string →
        (∀ x y, (s.entry x).present = true → (s.entry y).present = true → x ≠ y →
          (s.entry x).string <+: (s.entry y).string →
          c.toNat < x.toNat ∨ (x = c ∧ d.toNat ≤ y.toNat)) →
        exec .commitTable s =
          .next (s.ended 8 3 (BitVec.ofNat 32 (c.toNat + 65536 * d.toNat))))

/-- COMMIT_TABLE over a committed table changes nothing but the completion fields (R176, which marks this
as its own inference from R173 and R174). -/
def Obligations.CommitOfACommittedTableSucceeds : Prop :=
  ∀ s : State, s.CommitOk → s.codeValid = true → exec .commitTable s = .next (s.ended 0 0 0)

/-! ### ENCODE (43_encoder.md) -/

/-- ENCODE writes the codes of the text, concatenated in order from bit 0, and their length; bits at and
above it, and everything else, are unchanged (R196, R193). -/
def Obligations.EncodeConcatenatesTheCodes : Prop :=
  ∀ (s : State) (txt : List Symbol), s.textIs txt → txt.length ≤ s.cfg.maxTextLen →
    (txt ≠ [] → s.codeValid = true) → s.allPresent txt → (s.codesOf txt).length ≤ maxBits →
    ∃ t, exec .encode s = .next t ∧
      t = { s.ended 0 0 0 with bits := t.bits, bitLen := t.bitLen } ∧
      t.bitLen.toNat = (s.codesOf txt).length ∧
      Memory.holds t.bits 0 (s.codesOf txt) ∧
      ∀ a, (s.codesOf txt).length ≤ a → Memory.read t.bits a = Memory.read s.bits a

/-- ENCODE raises PARAMETER on a text longer than the memory, before any other check (R191), and
UNKNOWN_SYMBOL at the first position whose symbol has no code (R192). -/
def Obligations.EncodeRaisesParameterOrUnknownSymbol : Prop :=
  ∀ s : State,
    (s.cfg.maxTextLen < s.textLen.toNat →
      exec .encode s =
        .next (s.ended 7 (s.textLen.setWidth 32) (BitVec.ofNat 32 s.cfg.maxTextLen))) ∧
    (s.textLen.toNat ≤ s.cfg.maxTextLen → ∀ (i : Nat) (c : Symbol), i < s.textLen.toNat →
      Memory.read s.text i = some c → (s.codeValid = false ∨ (s.entry c).present = false) →
      (∀ j, j < i → ∃ d, Memory.read s.text j = some d ∧ s.codeValid = true ∧
        (s.entry d).present = true) →
      exec .encode s = .next (s.ended 2 (c.setWidth 32) (BitVec.ofNat 32 i)))

/-- ENCODE raises CAPACITY when the output is longer than `2^24 - 1` bits, with the exact length
(R194). -/
def Obligations.EncodeRaisesCapacity : Prop :=
  ∀ (s : State) (txt : List Symbol), s.textIs txt → txt.length ≤ s.cfg.maxTextLen →
    s.codeValid = true → s.allPresent txt →
    2 ^ 24 - 1 < (txt.map fun c => (s.entry c).len.toNat).sum →
    ∃ required : Word, required.toNat = (txt.map fun c => (s.entry c).len.toNat).sum ∧
      exec .encode s = .next (s.ended 3 required 0x00FFFFFF)

/-! ### DECODE (44_decoder.md) -/

/-- DECODE of every written bitstring under a committed table answers a next state: the bitstring is the
codes of some text followed by a fragment in which nothing matches (R203, R204), and DECODE succeeds with that
text, or, when the text memory does not hold it, raises CAPACITY (R205, R207). -/
def Obligations.DecodeAnswersEveryBitstring : Prop :=
  ∀ (s : State) (input : Bitstring), s.CommitOk → s.codeValid = true → s.bitsAre input →
    ∃ t txt frag, exec .decode s = .next t ∧
      s.allPresent txt ∧ s.noCodeIn frag ∧ input = s.codesOf txt ++ frag ∧
      ((txt.length ≤ s.cfg.maxTextLen ∧ t.errCode = 0 ∧ t.textIs txt) ∨
        (s.cfg.maxTextLen < txt.length ∧
          t = s.ended 3 (BitVec.ofNat 32 txt.length) (BitVec.ofNat 32 s.cfg.maxTextLen)))

/-- DECODE writes the symbols whose codes the bitstring holds, in order; a fragment left over is reported
by `TRUNC` and its place, and stays in bit memory (R205, R206, R208). -/
def Obligations.DecodeWritesTheParsedText : Prop :=
  ∀ (s : State) (txt : List Symbol) (frag : Bitstring), s.codeValid = true → s.romIsPrefixCode →
    s.bitsAre (s.codesOf txt ++ frag) → s.allPresent txt → s.noCodeIn frag →
    txt.length ≤ s.cfg.maxTextLen →
    ∃ t, exec .decode s = .next t ∧
      t = { s.ended 0 0 0 with
        text := t.text, textLen := t.textLen, trunc := t.trunc
        dangleStart := t.dangleStart, dangleLen := t.dangleLen } ∧
      t.textLen.toNat = txt.length ∧ Memory.holds t.text 0 txt ∧
      (∀ a, txt.length ≤ a → Memory.read t.text a = Memory.read s.text a) ∧
      (frag = [] → t.trunc = s.trunc ∧ t.dangleStart = s.dangleStart ∧ t.dangleLen = s.dangleLen) ∧
      (frag ≠ [] → t.trunc = true ∧ t.dangleStart.toNat = (s.codesOf txt).length ∧
        t.dangleLen.toNat = frag.length)

/-- DECODE raises MISSING_CODE_TABLE when no table is committed, whatever `BIT_LEN` is (R202), and
CAPACITY when it would write more symbols than text memory holds (R207). -/
def Obligations.DecodeRaisesItsErrors : Prop :=
  ∀ s : State,
    (s.codeValid = false → exec .decode s = .next (s.ended 5 0 0)) ∧
    (∀ (txt : List Symbol) (frag : Bitstring), s.codeValid = true → s.romIsPrefixCode →
      s.bitsAre (s.codesOf txt ++ frag) → s.allPresent txt → s.noCodeIn frag →
      s.cfg.maxTextLen < txt.length →
      exec .decode s =
        .next (s.ended 3 (BitVec.ofNat 32 txt.length) (BitVec.ofNat 32 s.cfg.maxTextLen)))

/-- Round trip: ENCODE of a text whose symbols all have codes, then DECODE with the same committed table,
gives the text back with no fragment (R209, the spec's own inference). Between the two, anything may have changed but the bits,
`BIT_LEN`, the table and the configuration; `TRUNC` is 0, as every issue leaves it. -/
def Obligations.DecodeUndoesEncode : Prop :=
  ∀ (s : State) (txt : List Symbol), s.textIs txt → txt.length ≤ s.cfg.maxTextLen →
    s.codeValid = true → s.romIsPrefixCode → s.allPresent txt → (s.codesOf txt).length ≤ maxBits →
    ∃ t, exec .encode s = .next t ∧
      ∀ t' : State, t'.bits = t.bits → t'.bitLen = t.bitLen → t'.rom = t.rom →
        t'.codeValid = t.codeValid → t'.cfg = t.cfg → t'.trunc = false →
        ∃ u, exec .decode t' = .next u ∧ u.errCode = 0 ∧ u.textLen = s.textLen ∧
          Memory.holds u.text 0 txt ∧ u.trunc = false

/-! ### EMBED and EXTRACT (45_lsb_channel.md) -/

/-- EMBED writes bit 0 of the first `24 + BIT_LEN` pixel bytes: the length most significant bit first,
then the bitstring; the other bits of those bytes, every later byte and everything else are unchanged
(R216, R221, R222). -/
def Obligations.EmbedWritesHeaderAndPayload : Prop :=
  ∀ (s : State) (payload : Bitstring) (bytes : List Byte), s.bitsAre payload →
    bytes.length = 24 + payload.length → Memory.holds s.pix 0 bytes →
    s.pixCount.toNat ≤ s.cfg.maxPixels → 24 + payload.length ≤ 3 * s.pixCount.toNat →
    ∃ t, exec .embed s = .next t ∧ t = { s.ended 0 0 0 with pix := t.pix } ∧
      (∀ i, (h : i < bytes.length) → ∃ v, Memory.read t.pix i = some v ∧
        v.getLsbD 0 = (if i < 24 then s.bitLen.getLsbD (23 - i) else payload.getD (i - 24) false) ∧
        ∀ j, j ≠ 0 → v.getLsbD j = bytes[i].getLsbD j) ∧
      ∀ a, bytes.length ≤ a → Memory.read t.pix a = Memory.read s.pix a

/-- EMBED raises PARAMETER on more pixels than the memory has, before any other check (R219), and
CAPACITY with required and available slots when the stream does not fit (R220). -/
def Obligations.EmbedRaisesParameterOrCapacity : Prop :=
  ∀ s : State,
    (s.cfg.maxPixels < s.pixCount.toNat →
      exec .embed s =
        .next (s.ended 7 (s.pixCount.setWidth 32) (BitVec.ofNat 32 s.cfg.maxPixels))) ∧
    (s.pixCount.toNat ≤ s.cfg.maxPixels → 3 * s.pixCount.toNat < 24 + s.bitLen.toNat →
      ∃ required available : Word, required.toNat = 24 + s.bitLen.toNat ∧
        available.toNat = 3 * s.pixCount.toNat ∧
        exec .embed s = .next (s.ended 3 required available))

/-- The capacity boundary: with the fewest pixels that hold `L` bits, `L` bits fit, `L + 1` bits raise
CAPACITY exactly when `L` is a multiple of 3, and the first failing length for `P ≥ 8` pixels is
`3P - 23` (R223, the spec's own inference; 90_conflicts.md C2). -/
def Obligations.EmbedCapacityBoundary : Prop :=
  ∀ s : State, s.pixCount.toNat ≤ s.cfg.maxPixels →
    (s.pixCount.toNat = (24 + s.bitLen.toNat + 2) / 3 → Memory.written s.bits 0 s.bitLen.toNat →
      Memory.written s.pix 0 (24 + s.bitLen.toNat) →
      ∃ t, exec .embed s = .next t ∧ t.errCode = 0) ∧
    (∀ len, s.bitLen.toNat = len + 1 → s.pixCount.toNat = (24 + len + 2) / 3 →
      ((∃ t, exec .embed s = .next t ∧ t.errCode = 3) ↔ len % 3 = 0)) ∧
    (8 ≤ s.pixCount.toNat →
      ((∃ t, exec .embed s = .next t ∧ t.errCode = 3) ↔
        3 * s.pixCount.toNat - 23 ≤ s.bitLen.toNat))

/-- EXTRACT reads the length from the first 24 slots, most significant bit first, and that many payload
bits after them; bits at and above the length and everything else, the pixels among it, are unchanged
(R216, R229). -/
def Obligations.ExtractReadsHeaderAndPayload : Prop :=
  ∀ (s : State) (bytes : List Byte) (len : Nat), Memory.holds s.pix 0 bytes →
    bytes.length = 24 + len →
    len = ((List.range 24).map fun k =>
      ((bytes.getD k 0).getLsbD 0).toNat * 2 ^ (23 - k)).sum →
    s.pixCount.toNat ≤ s.cfg.maxPixels → 24 + len ≤ 3 * s.pixCount.toNat →
    ∃ t, exec .extract s = .next t ∧ t = { s.ended 0 0 0 with bits := t.bits, bitLen := t.bitLen } ∧
      t.bitLen.toNat = len ∧
      (∀ j, j < len → Memory.read t.bits j = some ((bytes.getD (24 + j) 0).getLsbD 0)) ∧
      ∀ a, len ≤ a → Memory.read t.bits a = Memory.read s.bits a

/-- EXTRACT raises PARAMETER first (R226); CORRUPT_HEADER without a declared length when no header fits
(R227); CORRUPT_HEADER with the declared length when it exceeds the slots after the header (R228). -/
def Obligations.ExtractRaisesItsErrors : Prop :=
  ∀ s : State,
    (s.cfg.maxPixels < s.pixCount.toNat →
      exec .extract s =
        .next (s.ended 7 (s.pixCount.setWidth 32) (BitVec.ofNat 32 s.cfg.maxPixels))) ∧
    (s.pixCount.toNat ≤ s.cfg.maxPixels → s.pixCount.toNat < 8 →
      exec .extract s =
        .next (s.ended 4 0xFFFFFFFF (BitVec.ofNat 32 (3 * s.pixCount.toNat)))) ∧
    (s.pixCount.toNat ≤ s.cfg.maxPixels → 8 ≤ s.pixCount.toNat →
      ∀ (header : List Byte) (len : Nat), header.length = 24 → Memory.holds s.pix 0 header →
        len = ((List.range 24).map fun k =>
          ((header.getD k 0).getLsbD 0).toNat * 2 ^ (23 - k)).sum →
        3 * s.pixCount.toNat - 24 < len →
        exec .extract s =
          .next (s.ended 4 (BitVec.ofNat 32 len) (BitVec.ofNat 32 (3 * s.pixCount.toNat - 24))))

/-- Header round trip: EMBED then EXTRACT, with the pixels, `PIX_COUNT` and bit memory untouched in
between, gives the same length and the same bits (R230, the spec's own inference). -/
def Obligations.ExtractUndoesEmbed : Prop :=
  ∀ (s : State) (payload : Bitstring), s.bitsAre payload →
    Memory.written s.pix 0 (24 + payload.length) →
    s.pixCount.toNat ≤ s.cfg.maxPixels → 24 + payload.length ≤ 3 * s.pixCount.toNat →
    ∃ t, exec .embed s = .next t ∧
      ∀ t' : State, t'.pix = t.pix → t'.pixCount = t.pixCount → t'.bits = t.bits → t'.cfg = t.cfg →
        ∃ u, exec .extract t' = .next u ∧ u.errCode = 0 ∧ u.bitLen = s.bitLen ∧
          u.pix = t.pix ∧ ∀ a, Memory.read u.bits a = Memory.read s.bits a

/-! ### Invariants of every step -/

/-- The invariant holds at reset, in every admitted configuration (10_state.md R63). -/
def Obligations.InvariantHoldsAtReset : Prop :=
  State.reset.Inv ∧ ∀ cfg : Params, cfg.wf = true → (State.resetWith cfg).Inv

/-- Every step keeps the data memories in canonical form and inside their sizes (10_state.md R57 to
R59). -/
def Obligations.StepKeepsMemoriesCanonical : Prop :=
  ∀ s t : State, s.MemoriesOk → step s = .next t → t.MemoriesOk

/-- Every step keeps what the fields that describe commands say: clear while a command is in flight, a
legal error code with details 0 on success, a fragment exactly when `TRUNC` is set, within `2^24 - 1`
bits, and the counts of the last BUILD and COMMIT_TABLE in their ranges (46_control.md R235, 60_exceptions.md R250, 10_state.md
R40 to R46). -/
def Obligations.StepKeepsCommandFields : Prop :=
  ∀ s t : State, s.FlagsOk → s.CountersOk → step s = .next t → t.FlagsOk ∧ t.CountersOk

/-- Every step keeps `CODE_VALID` honest: whenever it is 1 the code ROM is a prefix code, and `SYM_COUNT`
is the number of its entries (42_code_rom.md R173). -/
def Obligations.StepKeepsCommittedTable : Prop :=
  ∀ s t : State, s.CommitOk → step s = .next t → t.CommitOk

/-- Every step keeps a block held in reset in the reset state (70_reset_and_hazards.md R280). -/
def Obligations.StepKeepsReset : Prop :=
  ∀ s t : State, s.HeldInReset → step s = .next t → t.HeldInReset

/-- Over every step: the configuration never changes. `CODE_VALID` rises only by the completion of a BUILD
or a COMMIT_TABLE, and falls only by a code-ROM window write or a reset. The node arena changes only by BUILD,
the frequency table by FREQ, the code ROM by BUILD, pixel memory by EMBED, by an in-range window write of that
memory (none for the arena), or by a reset (00_scope.md R6, 10_state.md R54 to R56, 20_memory.md R86,
42_code_rom.md R172, R173, 45_lsb_channel.md R229, 70_reset_and_hazards.md R280). That the agenda presents
these turns is the model's choice (log 2). -/
def Obligations.WhoWritesTablesAndPixels : Prop :=
  ∀ s t : State, step s = .next t →
    t.cfg = s.cfg ∧
    (s.codeValid = false → t.codeValid = true → s.completes 0x00000002 t ∨ s.completes 0x00000007 t) ∧
    (s.codeValid = true → t.codeValid = false → s.writesWindow 4 ∨ s.resets) ∧
    (t.node ≠ s.node → s.completes 0x00000002 t ∨ s.resets) ∧
    (t.freq ≠ s.freq → s.completes 0x00000001 t ∨ s.writesWindow 3 ∨ s.resets) ∧
    (t.rom ≠ s.rom → s.completes 0x00000002 t ∨ s.writesWindow 4 ∨ s.resets) ∧
    (t.pix ≠ s.pix → s.completes 0x00000005 t ∨ s.writesWindow 2 ∨ s.resets)

end
end

