-- ==== Sys2Proof/Laws/Bitstring.lean ====
section
/-! SUPPORT. Bit strings, their values and the least significant bits of bytes. -/

namespace Sys2Proof.Machine

@[simp] theorem bitsVal_nil : bitsVal [] = 0 := rfl

/-- One more bit on the right. -/
@[simp] theorem bitsVal_concat (c : Bitstring) (b : Bool) :
    bitsVal (c ++ [b]) = 2 * bitsVal c + b.toNat := by
  simp [bitsVal]

/-- A bitstring of length `n` has a value below `2 ^ n`. -/
theorem bitsVal_lt (c : Bitstring) : bitsVal c < 2 ^ c.length := by
  induction c using List.reverseRecOn with
  | nil => simp
  | append_singleton c b ih =>
    rw [bitsVal_concat, List.length_append, List.length_singleton, Nat.pow_succ]
    have := Bool.toNat_le b
    omega

@[simp] theorem strOf_length (len v : Nat) : (strOf len v).length = len := by simp [strOf]

/-- Bit `j` of `str_L(v)` is bit `L - 1 - j` of `v`. -/
theorem strOf_getElem {len v j : Nat} (h : j < (strOf len v).length) :
    (strOf len v)[j] = v.testBit (len - 1 - j) := by simp [strOf]

/-- The string of one bit more. -/
theorem strOf_succ (len v : Nat) : strOf (len + 1) v = strOf len (v / 2) ++ [v.testBit 0] := by
  apply List.ext_getElem (by simp)
  intro j h1 h2
  simp only [strOf_length] at h1
  by_cases hj : j < len
  · rw [strOf_getElem, List.getElem_append_left (by simpa using hj), strOf_getElem,
      Nat.testBit_div_two]
    congr 1; omega
  · obtain rfl : j = len := by omega
    simp [strOf_getElem]

/-- `str_L` after `val` is the string again (00_scope.md R9). -/
@[simp] theorem strOf_bitsVal (c : Bitstring) : strOf c.length (bitsVal c) = c := by
  induction c using List.reverseRecOn with
  | nil => rfl
  | append_singleton c b ih =>
    rw [bitsVal_concat, List.length_append, List.length_singleton, strOf_succ]
    have h1 : (2 * bitsVal c + b.toNat) / 2 = bitsVal c := by
      have := Bool.toNat_lt b; omega
    have h2 : (2 * bitsVal c + b.toNat).testBit 0 = b := by
      cases b <;> simp [Nat.testBit_zero]
    rw [h1, h2, ih]

/-- `val` after `str_L` keeps the low `L` bits. -/
@[simp] theorem bitsVal_strOf (len v : Nat) : bitsVal (strOf len v) = v % 2 ^ len := by
  induction len generalizing v with
  | zero => simp [strOf, Nat.mod_one]
  | succ len ih =>
    rw [strOf_succ, bitsVal_concat, ih, Nat.pow_succ', Nat.mod_mul]
    have : (v.testBit 0).toNat = v % 2 := by
      rw [Nat.testBit_zero]; rcases Nat.mod_two_eq_zero_or_one v with h | h <;> simp [h]
    omega

@[simp] theorem lsb_setLsb (v : Byte) (b : Bool) : lsb (setLsb v b) = b := by
  cases b <;> simp [lsb, setLsb]

/-- Setting the least significant bit leaves the other seven (45_lsb_channel.md R221). -/
theorem setLsb_getLsbD {v : Byte} {b : Bool} {i : Nat} (h : i ≠ 0) :
    (setLsb v b).getLsbD i = v.getLsbD i := by
  rcases Nat.lt_or_ge i 8 with hi | hi
  · interval_cases i <;> cases b <;> simp_all [setLsb]
  · rw [BitVec.getLsbD_of_ge _ _ hi, BitVec.getLsbD_of_ge _ _ hi]

@[simp] theorem headerBits_length (len : BitVec 24) : (headerBits len).length = 24 := by
  simp [headerBits, hdrBits]

@[simp] theorem bitsVal_headerBits (len : BitVec 24) : bitsVal (headerBits len) = len.toNat := by
  rw [headerBits, bitsVal_strOf, hdrBits]
  exact Nat.mod_eq_of_lt len.isLt

end Sys2Proof.Machine
end

