-- ==== Sys2Proof/Laws/Memory.lean ====
section
/-! SUPPORT. What the memory operations do: a read after a write, the canonical form, ranges. -/

namespace Sys2Proof.Machine

variable {α : Type}

@[simp] theorem Memory.read_nil (a : Nat) : Memory.read ([] : Memory α) a = none := rfl

/-- A read after a write: the value written at its address, the old value elsewhere. -/
@[simp] theorem Memory.read_write (m : Memory α) (a b : Nat) (v : α) :
    Memory.read (Memory.write m a v) b = if b = a then some v else Memory.read m b := by
  induction m with
  | nil => simp [Memory.write, Memory.read]
  | cons p rest ih =>
    obtain ⟨c, x⟩ := p
    simp only [Memory.write]
    split
    · simp [Memory.read]
    · split
      · subst_vars; simp only [Memory.read]; split <;> rfl
      · simp only [Memory.read, ih]
        by_cases hb : b = c
        · subst hb
          have : b ≠ a := fun h => by subst h; contradiction
          simp [this]
        · simp [hb]

/-- The addresses of a memory after a write. -/
theorem Memory.mem_write {m : Memory α} {a : Nat} {v : α} {p : Nat × α}
    (h : p ∈ Memory.write m a v) : p = (a, v) ∨ p ∈ m := by
  induction m with
  | nil => simpa [Memory.write] using h
  | cons q rest ih =>
    obtain ⟨c, x⟩ := q
    simp only [Memory.write] at h
    split at h
    · simpa using h
    · split at h
      · simp only [List.mem_cons] at h ⊢; tauto
      · simp only [List.mem_cons] at h ⊢
        rcases h with h | h
        · exact .inr (.inl h)
        · rcases ih h with h | h <;> tauto

/-- A write keeps the canonical form. -/
theorem Memory.write_wf {m : Memory α} (a : Nat) (v : α) (h : Memory.wf m) :
    Memory.wf (Memory.write m a v) := by
  induction m with
  | nil => simp [Memory.write, Memory.wf]
  | cons q rest ih =>
    obtain ⟨c, x⟩ := q
    simp only [Memory.wf, List.map_cons, List.pairwise_cons, List.mem_map] at h ih
    obtain ⟨hc, hrest⟩ := h
    simp only [Memory.write]
    split
    · rename_i hac
      simp only [Memory.wf, List.map_cons, List.pairwise_cons, List.mem_cons, List.mem_map]
      refine ⟨?_, hc, hrest⟩
      rintro y (rfl | hy)
      · exact hac
      · exact lt_trans hac (hc y hy)
    · split
      · subst_vars
        simp only [Memory.wf, List.map_cons, List.pairwise_cons, List.mem_map]
        exact ⟨hc, hrest⟩
      · simp only [Memory.wf, List.map_cons, List.pairwise_cons, List.mem_map]
        refine ⟨?_, ih hrest⟩
        rintro y ⟨p, hp, rfl⟩
        rcases Memory.mem_write hp with rfl | hp
        · show c < a; omega
        · exact hc _ ⟨p, hp, rfl⟩

/-- A write below the size keeps every address below the size. -/
theorem Memory.write_within {m : Memory α} {size a : Nat} (v : α) (ha : a < size)
    (h : Memory.within m size) : Memory.within (Memory.write m a v) size := by
  intro p hp
  rcases Memory.mem_write hp with rfl | hp
  · exact ha
  · exact h p hp

/-- A written address of a bounded memory is below the bound. -/
theorem Memory.lt_of_read {m : Memory α} {size a : Nat} {v : α} (h : Memory.within m size)
    (hr : Memory.read m a = some v) : a < size := by
  induction m with
  | nil => simp at hr
  | cons q rest ih =>
    obtain ⟨c, x⟩ := q
    simp only [Memory.read] at hr
    split at hr
    · subst_vars; exact h (c, x) (by simp)
    · exact ih (fun p hp => h p (by simp [hp])) hr

/-- Below every listed address nothing is written. -/
theorem Memory.read_none_of_lt {m : Memory α} {a : Nat} (h : ∀ p ∈ m, a < p.1) :
    Memory.read m a = none := by
  induction m with
  | nil => rfl
  | cons q rest ih =>
    obtain ⟨c, x⟩ := q
    have hc : a < c := h (c, x) (by simp)
    simp only [Memory.read, if_neg (show ¬ a = c by omega)]
    exact ih fun p hp => h p (by simp [hp])

/-- Equal memories are equal data: two canonical memories that read the same everywhere are one. -/
theorem Memory.ext_of_read {m n : Memory α} (hm : Memory.wf m) (hn : Memory.wf n)
    (h : ∀ a, Memory.read m a = Memory.read n a) : m = n := by
  induction m generalizing n with
  | nil =>
    cases n with
    | nil => rfl
    | cons q rest => simpa [Memory.read] using h q.1
  | cons p ms ih =>
    obtain ⟨a, v⟩ := p
    simp only [Memory.wf, List.map_cons, List.pairwise_cons, List.mem_map] at hm
    have hms : ∀ q ∈ ms, a < q.1 := fun q hq => hm.1 _ ⟨q, hq, rfl⟩
    cases n with
    | nil => simpa [Memory.read] using h a
    | cons q ns =>
      obtain ⟨b, w⟩ := q
      simp only [Memory.wf, List.map_cons, List.pairwise_cons, List.mem_map] at hn
      have hns : ∀ q ∈ ns, b < q.1 := fun q hq => hn.1 _ ⟨q, hq, rfl⟩
      have hab : a = b := by
        rcases Nat.lt_trichotomy a b with hlt | heq | hlt
        · have := h a
          simp [Memory.read, Nat.ne_of_lt hlt,
            Memory.read_none_of_lt (m := ns) fun q hq => lt_trans hlt (hns q hq)] at this
        · exact heq
        · have := h b
          simp [Memory.read, Nat.ne_of_lt hlt,
            Memory.read_none_of_lt (m := ms) fun q hq => lt_trans hlt (hms q hq)] at this
      subst hab
      have hv : v = w := by simpa [Memory.read] using h a
      subst hv
      congr 1
      refine ih hm.2 hn.2 fun c => ?_
      by_cases hc : c = a
      · subst hc
        rw [Memory.read_none_of_lt hms, Memory.read_none_of_lt hns]
      · simpa [Memory.read, hc] using h c

/-- A read after writing a list: its element inside the range, the old value outside. -/
@[simp] theorem Memory.read_writeAll (m : Memory α) (a b : Nat) (vs : List α) :
    Memory.read (Memory.writeAll m a vs) b =
      if a ≤ b ∧ b < a + vs.length then vs[b - a]? else Memory.read m b := by
  induction vs generalizing m a with
  | nil =>
    simp only [Memory.writeAll, List.length_nil]
    rw [if_neg (by omega)]
  | cons v vs ih =>
    simp only [Memory.writeAll, ih, Memory.read_write, List.length_cons]
    by_cases h1 : a + 1 ≤ b ∧ b < a + 1 + vs.length
    · rw [if_pos h1, if_pos (by omega), show b - a = (b - (a + 1)) + 1 by omega]
      simp
    · rw [if_neg h1]
      by_cases h2 : b = a
      · subst h2; simp
      · rw [if_neg h2, if_neg (by omega)]

/-- Writing a list keeps the canonical form. -/
theorem Memory.writeAll_wf {m : Memory α} (a : Nat) (vs : List α) (h : Memory.wf m) :
    Memory.wf (Memory.writeAll m a vs) := by
  induction vs generalizing m a with
  | nil => exact h
  | cons v vs ih => exact ih _ (Memory.write_wf a v h)

/-- Writing a list inside the size keeps every address below the size. -/
theorem Memory.writeAll_within {m : Memory α} {size a : Nat} (vs : List α)
    (ha : a + vs.length ≤ size) (h : Memory.within m size) :
    Memory.within (Memory.writeAll m a vs) size := by
  induction vs generalizing m a with
  | nil => exact h
  | cons v vs ih =>
    simp only [List.length_cons] at ha
    exact ih (by omega) (Memory.write_within v (by omega) h)

/-- A sized write: each byte inside the size, nothing beyond it. -/
@[simp] theorem Memory.read_writeSized (m : Memory Byte) (size a b : Nat) (vs : List Byte) :
    Memory.read (Memory.writeSized m size a vs) b =
      if a ≤ b ∧ b < a + vs.length ∧ b < size then vs[b - a]? else Memory.read m b := by
  induction vs generalizing m a with
  | nil =>
    simp only [Memory.writeSized, List.length_nil]
    rw [if_neg (by omega)]
  | cons v vs ih =>
    simp only [Memory.writeSized, ih, List.length_cons]
    by_cases h1 : a + 1 ≤ b ∧ b < a + 1 + vs.length ∧ b < size
    · rw [if_pos h1, if_pos (by omega), show b - a = (b - (a + 1)) + 1 by omega]
      simp
    · rw [if_neg h1]
      by_cases h2 : b = a
      · subst h2
        by_cases h3 : b < size
        · simp [h3]
        · simp [h3]
      · rw [if_neg (show ¬(a ≤ b ∧ b < a + (vs.length + 1) ∧ b < size) by omega)]
        split
        · rw [Memory.read_write, if_neg h2]
        · rfl

/-- A sized write keeps the canonical form. -/
theorem Memory.writeSized_wf {m : Memory Byte} (size a : Nat) (vs : List Byte) (h : Memory.wf m) :
    Memory.wf (Memory.writeSized m size a vs) := by
  induction vs generalizing m a with
  | nil => exact h
  | cons v vs ih =>
    simp only [Memory.writeSized]
    split
    · exact ih _ (Memory.write_wf a v h)
    · exact ih _ h

/-- A sized write keeps every address below the size. -/
theorem Memory.writeSized_within {m : Memory Byte} {size : Nat} (a : Nat) (vs : List Byte)
    (h : Memory.within m size) : Memory.within (Memory.writeSized m size a vs) size := by
  induction vs generalizing m a with
  | nil => exact h
  | cons v vs ih =>
    simp only [Memory.writeSized]
    split
    · rename_i ha; exact ih _ (Memory.write_within v ha h)
    · exact ih _ h

/-- When a range reads: the values at its addresses, in order. -/
theorem Memory.readRange_ok_iff {m : Memory α} {missing : Nat → Fault} {a n : Nat} {vs : List α} :
    Memory.readRange m missing a n = .ok vs ↔
      vs.length = n ∧ ∀ i, (h : i < vs.length) → Memory.read m (a + i) = some vs[i] := by
  induction n generalizing a vs with
  | zero =>
    simp only [Memory.readRange, Except.ok.injEq]
    constructor
    · rintro rfl; exact ⟨rfl, fun i h => by simp at h⟩
    · rintro ⟨h, -⟩; exact (List.length_eq_zero_iff.mp h).symm
  | succ n ih =>
    simp only [Memory.readRange]
    constructor
    · intro h
      split at h
      · cases h
      · rename_i v hv
        split at h
        · cases h
        · rename_i ws hws
          cases h
          obtain ⟨hl, hr⟩ := ih.mp hws
          refine ⟨by simp [hl], fun i hi => ?_⟩
          cases i with
          | zero => simpa using hv
          | succ i => simpa [Nat.add_assoc, Nat.add_comm 1] using hr i (by simpa using hi)
    · rintro ⟨hl, hr⟩
      cases vs with
      | nil => simp at hl
      | cons v ws =>
        have hv : Memory.read m a = some v := hr 0 (by simp)
        have hws : Memory.readRange m missing (a + 1) n = .ok ws :=
          ih.mpr ⟨by simpa using hl, fun i hi => by
            have := hr (i + 1) (by simpa using hi)
            rwa [show a + (i + 1) = a + 1 + i by omega] at this⟩
        simp [hv, hws]

/-- When a range faults: at its first unwritten address. -/
theorem Memory.readRange_error_iff {m : Memory α} {missing : Nat → Fault} {a n : Nat} {f : Fault} :
    Memory.readRange m missing a n = .error f ↔
      ∃ i, i < n ∧ Memory.read m (a + i) = none ∧
        (∀ j, j < i → (Memory.read m (a + j)).isSome) ∧ f = missing (a + i) := by
  induction n generalizing a with
  | zero => simp [Memory.readRange]
  | succ n ih =>
    simp only [Memory.readRange]
    cases hv : Memory.read m a with
    | none =>
      simp only [Except.error.injEq]
      constructor
      · rintro rfl; exact ⟨0, by omega, by simpa using hv, fun j hj => by omega, by simp⟩
      · rintro ⟨i, -, -, hi, rfl⟩
        cases i with
        | zero => simp
        | succ i => simpa [hv] using hi 0 (by omega)
    | some v =>
      simp only
      have key : (∃ i, i < n ∧ Memory.read m (a + 1 + i) = none ∧
            (∀ j, j < i → (Memory.read m (a + 1 + j)).isSome) ∧ f = missing (a + 1 + i)) ↔
          ∃ i, i < n + 1 ∧ Memory.read m (a + i) = none ∧
            (∀ j, j < i → (Memory.read m (a + j)).isSome) ∧ f = missing (a + i) := by
        constructor
        · rintro ⟨i, hi, hn, hj, rfl⟩
          refine ⟨i + 1, by omega, by rw [← hn]; congr 1; omega, fun j hj' => ?_, by congr 1; omega⟩
          cases j with
          | zero => simp [hv]
          | succ j =>
            have := hj j (by omega)
            rwa [show a + 1 + j = a + (j + 1) by omega] at this
        · rintro ⟨i, hi, hn, hj, rfl⟩
          cases i with
          | zero => simp [hv] at hn
          | succ i =>
            refine ⟨i, by omega, by rw [← hn]; congr 1; omega, fun j hj' => ?_, by congr 1; omega⟩
            have := hj (j + 1) (by omega)
            rwa [show a + (j + 1) = a + 1 + j by omega] at this
      rw [← key, ← ih]
      cases Memory.readRange m missing (a + 1) n with
      | error g => simp
      | ok ws => simp

/-- A sized read of a range inside the size is a plain range read. -/
theorem Memory.readSized_eq_readRange {m : Memory Byte} {missing : Nat → Fault} {size a n : Nat}
    (h : a + n ≤ size) : Memory.readSized m missing size a n = Memory.readRange m missing a n := by
  induction n generalizing a with
  | zero => rfl
  | succ n ih =>
    simp only [Memory.readSized, Memory.readRange, if_pos (show a < size by omega),
      ih (a := a + 1) (by omega)]
    cases Memory.read m a with
    | none => rfl
    | some v => cases Memory.readRange m missing (a + 1) n <;> rfl

end Sys2Proof.Machine
end

