-- ==== Sys2Proof/Laws/State.lean ====
section
/-! SUPPORT. What each named update of State does to each field: one lemma a field an update, all true by
definition, so that no proof unfolds a record update. -/

namespace Sys2Proof.Machine

@[simp] theorem State.issue_cfg (s : State) (w : Word) : (s.issue w).cfg = s.cfg := rfl
@[simp] theorem State.issue_agenda (s : State) (w : Word) : (s.issue w).agenda = s.agenda := rfl
@[simp] theorem State.issue_rst (s : State) (w : Word) : (s.issue w).rst = s.rst := rfl
@[simp] theorem State.issue_rdata (s : State) (w : Word) : (s.issue w).rdata = s.rdata := rfl
@[simp] theorem State.issue_freeReads (s : State) (w : Word) : (s.issue w).freeReads = s.freeReads := rfl
@[simp] theorem State.issue_latch (s : State) (w : Word) : (s.issue w).latch = some w := rfl
@[simp] theorem State.issue_done (s : State) (w : Word) : (s.issue w).done = false := rfl
@[simp] theorem State.issue_trunc (s : State) (w : Word) : (s.issue w).trunc = false := rfl
@[simp] theorem State.issue_codeValid (s : State) (w : Word) : (s.issue w).codeValid = s.codeValid := rfl
@[simp] theorem State.issue_hostErr (s : State) (w : Word) : (s.issue w).hostErr = s.hostErr := rfl
@[simp] theorem State.issue_errCode (s : State) (w : Word) : (s.issue w).errCode = 0 := rfl
@[simp] theorem State.issue_irqEn (s : State) (w : Word) : (s.issue w).irqEn = s.irqEn := rfl
@[simp] theorem State.issue_textLen (s : State) (w : Word) : (s.issue w).textLen = s.textLen := rfl
@[simp] theorem State.issue_bitLen (s : State) (w : Word) : (s.issue w).bitLen = s.bitLen := rfl
@[simp] theorem State.issue_pixCount (s : State) (w : Word) : (s.issue w).pixCount = s.pixCount := rfl
@[simp] theorem State.issue_symCount (s : State) (w : Word) : (s.issue w).symCount = s.symCount := rfl
@[simp] theorem State.issue_nodeCount (s : State) (w : Word) : (s.issue w).nodeCount = s.nodeCount := rfl
@[simp] theorem State.issue_root (s : State) (w : Word) : (s.issue w).root = s.root := rfl
@[simp] theorem State.issue_errInfo0 (s : State) (w : Word) : (s.issue w).errInfo0 = 0 := rfl
@[simp] theorem State.issue_errInfo1 (s : State) (w : Word) : (s.issue w).errInfo1 = 0 := rfl
@[simp] theorem State.issue_dangleStart (s : State) (w : Word) : (s.issue w).dangleStart = 0 := rfl
@[simp] theorem State.issue_dangleLen (s : State) (w : Word) : (s.issue w).dangleLen = 0 := rfl
@[simp] theorem State.issue_memSel (s : State) (w : Word) : (s.issue w).memSel = s.memSel := rfl
@[simp] theorem State.issue_memAddr (s : State) (w : Word) : (s.issue w).memAddr = s.memAddr := rfl
@[simp] theorem State.issue_freq (s : State) (w : Word) : (s.issue w).freq = s.freq := rfl
@[simp] theorem State.issue_rom (s : State) (w : Word) : (s.issue w).rom = s.rom := rfl
@[simp] theorem State.issue_node (s : State) (w : Word) : (s.issue w).node = s.node := rfl
@[simp] theorem State.issue_text (s : State) (w : Word) : (s.issue w).text = s.text := rfl
@[simp] theorem State.issue_bits (s : State) (w : Word) : (s.issue w).bits = s.bits := rfl
@[simp] theorem State.issue_pix (s : State) (w : Word) : (s.issue w).pix = s.pix := rfl

@[simp] theorem State.complete_cfg (s : State) : s.complete.cfg = s.cfg := rfl
@[simp] theorem State.complete_agenda (s : State) : s.complete.agenda = s.agenda := rfl
@[simp] theorem State.complete_rst (s : State) : s.complete.rst = s.rst := rfl
@[simp] theorem State.complete_rdata (s : State) : s.complete.rdata = s.rdata := rfl
@[simp] theorem State.complete_freeReads (s : State) : s.complete.freeReads = s.freeReads := rfl
@[simp] theorem State.complete_latch (s : State) : s.complete.latch = none := rfl
@[simp] theorem State.complete_done (s : State) : s.complete.done = true := rfl
@[simp] theorem State.complete_trunc (s : State) : s.complete.trunc = s.trunc := rfl
@[simp] theorem State.complete_codeValid (s : State) : s.complete.codeValid = s.codeValid := rfl
@[simp] theorem State.complete_hostErr (s : State) : s.complete.hostErr = s.hostErr := rfl
@[simp] theorem State.complete_errCode (s : State) : s.complete.errCode = 0 := rfl
@[simp] theorem State.complete_irqEn (s : State) : s.complete.irqEn = s.irqEn := rfl
@[simp] theorem State.complete_textLen (s : State) : s.complete.textLen = s.textLen := rfl
@[simp] theorem State.complete_bitLen (s : State) : s.complete.bitLen = s.bitLen := rfl
@[simp] theorem State.complete_pixCount (s : State) : s.complete.pixCount = s.pixCount := rfl
@[simp] theorem State.complete_symCount (s : State) : s.complete.symCount = s.symCount := rfl
@[simp] theorem State.complete_nodeCount (s : State) : s.complete.nodeCount = s.nodeCount := rfl
@[simp] theorem State.complete_root (s : State) : s.complete.root = s.root := rfl
@[simp] theorem State.complete_errInfo0 (s : State) : s.complete.errInfo0 = 0 := rfl
@[simp] theorem State.complete_errInfo1 (s : State) : s.complete.errInfo1 = 0 := rfl
@[simp] theorem State.complete_dangleStart (s : State) : s.complete.dangleStart = s.dangleStart := rfl
@[simp] theorem State.complete_dangleLen (s : State) : s.complete.dangleLen = s.dangleLen := rfl
@[simp] theorem State.complete_memSel (s : State) : s.complete.memSel = s.memSel := rfl
@[simp] theorem State.complete_memAddr (s : State) : s.complete.memAddr = s.memAddr := rfl
@[simp] theorem State.complete_freq (s : State) : s.complete.freq = s.freq := rfl
@[simp] theorem State.complete_rom (s : State) : s.complete.rom = s.rom := rfl
@[simp] theorem State.complete_node (s : State) : s.complete.node = s.node := rfl
@[simp] theorem State.complete_text (s : State) : s.complete.text = s.text := rfl
@[simp] theorem State.complete_bits (s : State) : s.complete.bits = s.bits := rfl
@[simp] theorem State.complete_pix (s : State) : s.complete.pix = s.pix := rfl

@[simp] theorem State.raise_cfg (s : State) (e : CmdError) : (s.raise e).cfg = s.cfg := rfl
@[simp] theorem State.raise_agenda (s : State) (e : CmdError) : (s.raise e).agenda = s.agenda := rfl
@[simp] theorem State.raise_rst (s : State) (e : CmdError) : (s.raise e).rst = s.rst := rfl
@[simp] theorem State.raise_rdata (s : State) (e : CmdError) : (s.raise e).rdata = s.rdata := rfl
@[simp] theorem State.raise_freeReads (s : State) (e : CmdError) : (s.raise e).freeReads = s.freeReads := rfl
@[simp] theorem State.raise_latch (s : State) (e : CmdError) : (s.raise e).latch = none := rfl
@[simp] theorem State.raise_done (s : State) (e : CmdError) : (s.raise e).done = true := rfl
@[simp] theorem State.raise_trunc (s : State) (e : CmdError) : (s.raise e).trunc = s.trunc := rfl
@[simp] theorem State.raise_codeValid (s : State) (e : CmdError) : (s.raise e).codeValid = s.codeValid := rfl
@[simp] theorem State.raise_hostErr (s : State) (e : CmdError) : (s.raise e).hostErr = s.hostErr := rfl
@[simp] theorem State.raise_errCode (s : State) (e : CmdError) : (s.raise e).errCode = e.code := rfl
@[simp] theorem State.raise_irqEn (s : State) (e : CmdError) : (s.raise e).irqEn = s.irqEn := rfl
@[simp] theorem State.raise_textLen (s : State) (e : CmdError) : (s.raise e).textLen = s.textLen := rfl
@[simp] theorem State.raise_bitLen (s : State) (e : CmdError) : (s.raise e).bitLen = s.bitLen := rfl
@[simp] theorem State.raise_pixCount (s : State) (e : CmdError) : (s.raise e).pixCount = s.pixCount := rfl
@[simp] theorem State.raise_symCount (s : State) (e : CmdError) : (s.raise e).symCount = s.symCount := rfl
@[simp] theorem State.raise_nodeCount (s : State) (e : CmdError) : (s.raise e).nodeCount = s.nodeCount := rfl
@[simp] theorem State.raise_root (s : State) (e : CmdError) : (s.raise e).root = s.root := rfl
@[simp] theorem State.raise_errInfo0 (s : State) (e : CmdError) : (s.raise e).errInfo0 = e.info0 := rfl
@[simp] theorem State.raise_errInfo1 (s : State) (e : CmdError) : (s.raise e).errInfo1 = e.info1 := rfl
@[simp] theorem State.raise_dangleStart (s : State) (e : CmdError) : (s.raise e).dangleStart = s.dangleStart := rfl
@[simp] theorem State.raise_dangleLen (s : State) (e : CmdError) : (s.raise e).dangleLen = s.dangleLen := rfl
@[simp] theorem State.raise_memSel (s : State) (e : CmdError) : (s.raise e).memSel = s.memSel := rfl
@[simp] theorem State.raise_memAddr (s : State) (e : CmdError) : (s.raise e).memAddr = s.memAddr := rfl
@[simp] theorem State.raise_freq (s : State) (e : CmdError) : (s.raise e).freq = s.freq := rfl
@[simp] theorem State.raise_rom (s : State) (e : CmdError) : (s.raise e).rom = s.rom := rfl
@[simp] theorem State.raise_node (s : State) (e : CmdError) : (s.raise e).node = s.node := rfl
@[simp] theorem State.raise_text (s : State) (e : CmdError) : (s.raise e).text = s.text := rfl
@[simp] theorem State.raise_bits (s : State) (e : CmdError) : (s.raise e).bits = s.bits := rfl
@[simp] theorem State.raise_pix (s : State) (e : CmdError) : (s.raise e).pix = s.pix := rfl

@[simp] theorem State.flagHostErr_cfg (s : State) : s.flagHostErr.cfg = s.cfg := rfl
@[simp] theorem State.flagHostErr_agenda (s : State) : s.flagHostErr.agenda = s.agenda := rfl
@[simp] theorem State.flagHostErr_rst (s : State) : s.flagHostErr.rst = s.rst := rfl
@[simp] theorem State.flagHostErr_rdata (s : State) : s.flagHostErr.rdata = s.rdata := rfl
@[simp] theorem State.flagHostErr_freeReads (s : State) : s.flagHostErr.freeReads = s.freeReads := rfl
@[simp] theorem State.flagHostErr_latch (s : State) : s.flagHostErr.latch = s.latch := rfl
@[simp] theorem State.flagHostErr_done (s : State) : s.flagHostErr.done = s.done := rfl
@[simp] theorem State.flagHostErr_trunc (s : State) : s.flagHostErr.trunc = s.trunc := rfl
@[simp] theorem State.flagHostErr_codeValid (s : State) : s.flagHostErr.codeValid = s.codeValid := rfl
@[simp] theorem State.flagHostErr_hostErr (s : State) : s.flagHostErr.hostErr = true := rfl
@[simp] theorem State.flagHostErr_errCode (s : State) : s.flagHostErr.errCode = s.errCode := rfl
@[simp] theorem State.flagHostErr_irqEn (s : State) : s.flagHostErr.irqEn = s.irqEn := rfl
@[simp] theorem State.flagHostErr_textLen (s : State) : s.flagHostErr.textLen = s.textLen := rfl
@[simp] theorem State.flagHostErr_bitLen (s : State) : s.flagHostErr.bitLen = s.bitLen := rfl
@[simp] theorem State.flagHostErr_pixCount (s : State) : s.flagHostErr.pixCount = s.pixCount := rfl
@[simp] theorem State.flagHostErr_symCount (s : State) : s.flagHostErr.symCount = s.symCount := rfl
@[simp] theorem State.flagHostErr_nodeCount (s : State) : s.flagHostErr.nodeCount = s.nodeCount := rfl
@[simp] theorem State.flagHostErr_root (s : State) : s.flagHostErr.root = s.root := rfl
@[simp] theorem State.flagHostErr_errInfo0 (s : State) : s.flagHostErr.errInfo0 = s.errInfo0 := rfl
@[simp] theorem State.flagHostErr_errInfo1 (s : State) : s.flagHostErr.errInfo1 = s.errInfo1 := rfl
@[simp] theorem State.flagHostErr_dangleStart (s : State) : s.flagHostErr.dangleStart = s.dangleStart := rfl
@[simp] theorem State.flagHostErr_dangleLen (s : State) : s.flagHostErr.dangleLen = s.dangleLen := rfl
@[simp] theorem State.flagHostErr_memSel (s : State) : s.flagHostErr.memSel = s.memSel := rfl
@[simp] theorem State.flagHostErr_memAddr (s : State) : s.flagHostErr.memAddr = s.memAddr := rfl
@[simp] theorem State.flagHostErr_freq (s : State) : s.flagHostErr.freq = s.freq := rfl
@[simp] theorem State.flagHostErr_rom (s : State) : s.flagHostErr.rom = s.rom := rfl
@[simp] theorem State.flagHostErr_node (s : State) : s.flagHostErr.node = s.node := rfl
@[simp] theorem State.flagHostErr_text (s : State) : s.flagHostErr.text = s.text := rfl
@[simp] theorem State.flagHostErr_bits (s : State) : s.flagHostErr.bits = s.bits := rfl
@[simp] theorem State.flagHostErr_pix (s : State) : s.flagHostErr.pix = s.pix := rfl

@[simp] theorem State.advanceMemAddr_cfg (s : State) : s.advanceMemAddr.cfg = s.cfg := rfl
@[simp] theorem State.advanceMemAddr_agenda (s : State) : s.advanceMemAddr.agenda = s.agenda := rfl
@[simp] theorem State.advanceMemAddr_rst (s : State) : s.advanceMemAddr.rst = s.rst := rfl
@[simp] theorem State.advanceMemAddr_rdata (s : State) : s.advanceMemAddr.rdata = s.rdata := rfl
@[simp] theorem State.advanceMemAddr_freeReads (s : State) : s.advanceMemAddr.freeReads = s.freeReads := rfl
@[simp] theorem State.advanceMemAddr_latch (s : State) : s.advanceMemAddr.latch = s.latch := rfl
@[simp] theorem State.advanceMemAddr_done (s : State) : s.advanceMemAddr.done = s.done := rfl
@[simp] theorem State.advanceMemAddr_trunc (s : State) : s.advanceMemAddr.trunc = s.trunc := rfl
@[simp] theorem State.advanceMemAddr_codeValid (s : State) : s.advanceMemAddr.codeValid = s.codeValid := rfl
@[simp] theorem State.advanceMemAddr_hostErr (s : State) : s.advanceMemAddr.hostErr = s.hostErr := rfl
@[simp] theorem State.advanceMemAddr_errCode (s : State) : s.advanceMemAddr.errCode = s.errCode := rfl
@[simp] theorem State.advanceMemAddr_irqEn (s : State) : s.advanceMemAddr.irqEn = s.irqEn := rfl
@[simp] theorem State.advanceMemAddr_textLen (s : State) : s.advanceMemAddr.textLen = s.textLen := rfl
@[simp] theorem State.advanceMemAddr_bitLen (s : State) : s.advanceMemAddr.bitLen = s.bitLen := rfl
@[simp] theorem State.advanceMemAddr_pixCount (s : State) : s.advanceMemAddr.pixCount = s.pixCount := rfl
@[simp] theorem State.advanceMemAddr_symCount (s : State) : s.advanceMemAddr.symCount = s.symCount := rfl
@[simp] theorem State.advanceMemAddr_nodeCount (s : State) : s.advanceMemAddr.nodeCount = s.nodeCount := rfl
@[simp] theorem State.advanceMemAddr_root (s : State) : s.advanceMemAddr.root = s.root := rfl
@[simp] theorem State.advanceMemAddr_errInfo0 (s : State) : s.advanceMemAddr.errInfo0 = s.errInfo0 := rfl
@[simp] theorem State.advanceMemAddr_errInfo1 (s : State) : s.advanceMemAddr.errInfo1 = s.errInfo1 := rfl
@[simp] theorem State.advanceMemAddr_dangleStart (s : State) : s.advanceMemAddr.dangleStart = s.dangleStart := rfl
@[simp] theorem State.advanceMemAddr_dangleLen (s : State) : s.advanceMemAddr.dangleLen = s.dangleLen := rfl
@[simp] theorem State.advanceMemAddr_memSel (s : State) : s.advanceMemAddr.memSel = s.memSel := rfl
@[simp] theorem State.advanceMemAddr_memAddr (s : State) : s.advanceMemAddr.memAddr = s.memAddr + 1 := rfl
@[simp] theorem State.advanceMemAddr_freq (s : State) : s.advanceMemAddr.freq = s.freq := rfl
@[simp] theorem State.advanceMemAddr_rom (s : State) : s.advanceMemAddr.rom = s.rom := rfl
@[simp] theorem State.advanceMemAddr_node (s : State) : s.advanceMemAddr.node = s.node := rfl
@[simp] theorem State.advanceMemAddr_text (s : State) : s.advanceMemAddr.text = s.text := rfl
@[simp] theorem State.advanceMemAddr_bits (s : State) : s.advanceMemAddr.bits = s.bits := rfl
@[simp] theorem State.advanceMemAddr_pix (s : State) : s.advanceMemAddr.pix = s.pix := rfl

@[simp] theorem State.deliver_cfg (s : State) (w : Word) : (s.deliver w).cfg = s.cfg := rfl
@[simp] theorem State.deliver_agenda (s : State) (w : Word) : (s.deliver w).agenda = s.agenda := rfl
@[simp] theorem State.deliver_rst (s : State) (w : Word) : (s.deliver w).rst = s.rst := rfl
@[simp] theorem State.deliver_rdata (s : State) (w : Word) : (s.deliver w).rdata = w := rfl
@[simp] theorem State.deliver_freeReads (s : State) (w : Word) : (s.deliver w).freeReads = s.freeReads := rfl
@[simp] theorem State.deliver_latch (s : State) (w : Word) : (s.deliver w).latch = s.latch := rfl
@[simp] theorem State.deliver_done (s : State) (w : Word) : (s.deliver w).done = s.done := rfl
@[simp] theorem State.deliver_trunc (s : State) (w : Word) : (s.deliver w).trunc = s.trunc := rfl
@[simp] theorem State.deliver_codeValid (s : State) (w : Word) : (s.deliver w).codeValid = s.codeValid := rfl
@[simp] theorem State.deliver_hostErr (s : State) (w : Word) : (s.deliver w).hostErr = s.hostErr := rfl
@[simp] theorem State.deliver_errCode (s : State) (w : Word) : (s.deliver w).errCode = s.errCode := rfl
@[simp] theorem State.deliver_irqEn (s : State) (w : Word) : (s.deliver w).irqEn = s.irqEn := rfl
@[simp] theorem State.deliver_textLen (s : State) (w : Word) : (s.deliver w).textLen = s.textLen := rfl
@[simp] theorem State.deliver_bitLen (s : State) (w : Word) : (s.deliver w).bitLen = s.bitLen := rfl
@[simp] theorem State.deliver_pixCount (s : State) (w : Word) : (s.deliver w).pixCount = s.pixCount := rfl
@[simp] theorem State.deliver_symCount (s : State) (w : Word) : (s.deliver w).symCount = s.symCount := rfl
@[simp] theorem State.deliver_nodeCount (s : State) (w : Word) : (s.deliver w).nodeCount = s.nodeCount := rfl
@[simp] theorem State.deliver_root (s : State) (w : Word) : (s.deliver w).root = s.root := rfl
@[simp] theorem State.deliver_errInfo0 (s : State) (w : Word) : (s.deliver w).errInfo0 = s.errInfo0 := rfl
@[simp] theorem State.deliver_errInfo1 (s : State) (w : Word) : (s.deliver w).errInfo1 = s.errInfo1 := rfl
@[simp] theorem State.deliver_dangleStart (s : State) (w : Word) : (s.deliver w).dangleStart = s.dangleStart := rfl
@[simp] theorem State.deliver_dangleLen (s : State) (w : Word) : (s.deliver w).dangleLen = s.dangleLen := rfl
@[simp] theorem State.deliver_memSel (s : State) (w : Word) : (s.deliver w).memSel = s.memSel := rfl
@[simp] theorem State.deliver_memAddr (s : State) (w : Word) : (s.deliver w).memAddr = s.memAddr := rfl
@[simp] theorem State.deliver_freq (s : State) (w : Word) : (s.deliver w).freq = s.freq := rfl
@[simp] theorem State.deliver_rom (s : State) (w : Word) : (s.deliver w).rom = s.rom := rfl
@[simp] theorem State.deliver_node (s : State) (w : Word) : (s.deliver w).node = s.node := rfl
@[simp] theorem State.deliver_text (s : State) (w : Word) : (s.deliver w).text = s.text := rfl
@[simp] theorem State.deliver_bits (s : State) (w : Word) : (s.deliver w).bits = s.bits := rfl
@[simp] theorem State.deliver_pix (s : State) (w : Word) : (s.deliver w).pix = s.pix := rfl

@[simp] theorem State.writeStatus_cfg (s : State) (w : Word) : (s.writeStatus w).cfg = s.cfg := rfl
@[simp] theorem State.writeStatus_agenda (s : State) (w : Word) : (s.writeStatus w).agenda = s.agenda := rfl
@[simp] theorem State.writeStatus_rst (s : State) (w : Word) : (s.writeStatus w).rst = s.rst := rfl
@[simp] theorem State.writeStatus_rdata (s : State) (w : Word) : (s.writeStatus w).rdata = s.rdata := rfl
@[simp] theorem State.writeStatus_freeReads (s : State) (w : Word) : (s.writeStatus w).freeReads = s.freeReads := rfl
@[simp] theorem State.writeStatus_latch (s : State) (w : Word) : (s.writeStatus w).latch = s.latch := rfl
@[simp] theorem State.writeStatus_done (s : State) (w : Word) : (s.writeStatus w).done = (s.done && !w.getLsbD 1) := rfl
@[simp] theorem State.writeStatus_trunc (s : State) (w : Word) : (s.writeStatus w).trunc = s.trunc := rfl
@[simp] theorem State.writeStatus_codeValid (s : State) (w : Word) : (s.writeStatus w).codeValid = s.codeValid := rfl
@[simp] theorem State.writeStatus_hostErr (s : State) (w : Word) : (s.writeStatus w).hostErr = (s.hostErr && !w.getLsbD 4) := rfl
@[simp] theorem State.writeStatus_errCode (s : State) (w : Word) : (s.writeStatus w).errCode = s.errCode := rfl
@[simp] theorem State.writeStatus_irqEn (s : State) (w : Word) : (s.writeStatus w).irqEn = s.irqEn := rfl
@[simp] theorem State.writeStatus_textLen (s : State) (w : Word) : (s.writeStatus w).textLen = s.textLen := rfl
@[simp] theorem State.writeStatus_bitLen (s : State) (w : Word) : (s.writeStatus w).bitLen = s.bitLen := rfl
@[simp] theorem State.writeStatus_pixCount (s : State) (w : Word) : (s.writeStatus w).pixCount = s.pixCount := rfl
@[simp] theorem State.writeStatus_symCount (s : State) (w : Word) : (s.writeStatus w).symCount = s.symCount := rfl
@[simp] theorem State.writeStatus_nodeCount (s : State) (w : Word) : (s.writeStatus w).nodeCount = s.nodeCount := rfl
@[simp] theorem State.writeStatus_root (s : State) (w : Word) : (s.writeStatus w).root = s.root := rfl
@[simp] theorem State.writeStatus_errInfo0 (s : State) (w : Word) : (s.writeStatus w).errInfo0 = s.errInfo0 := rfl
@[simp] theorem State.writeStatus_errInfo1 (s : State) (w : Word) : (s.writeStatus w).errInfo1 = s.errInfo1 := rfl
@[simp] theorem State.writeStatus_dangleStart (s : State) (w : Word) : (s.writeStatus w).dangleStart = s.dangleStart := rfl
@[simp] theorem State.writeStatus_dangleLen (s : State) (w : Word) : (s.writeStatus w).dangleLen = s.dangleLen := rfl
@[simp] theorem State.writeStatus_memSel (s : State) (w : Word) : (s.writeStatus w).memSel = s.memSel := rfl
@[simp] theorem State.writeStatus_memAddr (s : State) (w : Word) : (s.writeStatus w).memAddr = s.memAddr := rfl
@[simp] theorem State.writeStatus_freq (s : State) (w : Word) : (s.writeStatus w).freq = s.freq := rfl
@[simp] theorem State.writeStatus_rom (s : State) (w : Word) : (s.writeStatus w).rom = s.rom := rfl
@[simp] theorem State.writeStatus_node (s : State) (w : Word) : (s.writeStatus w).node = s.node := rfl
@[simp] theorem State.writeStatus_text (s : State) (w : Word) : (s.writeStatus w).text = s.text := rfl
@[simp] theorem State.writeStatus_bits (s : State) (w : Word) : (s.writeStatus w).bits = s.bits := rfl
@[simp] theorem State.writeStatus_pix (s : State) (w : Word) : (s.writeStatus w).pix = s.pix := rfl

@[simp] theorem State.writeBitstring_cfg (s : State) (out : Bitstring) : (s.writeBitstring out).cfg = s.cfg := rfl
@[simp] theorem State.writeBitstring_agenda (s : State) (out : Bitstring) : (s.writeBitstring out).agenda = s.agenda := rfl
@[simp] theorem State.writeBitstring_rst (s : State) (out : Bitstring) : (s.writeBitstring out).rst = s.rst := rfl
@[simp] theorem State.writeBitstring_rdata (s : State) (out : Bitstring) : (s.writeBitstring out).rdata = s.rdata := rfl
@[simp] theorem State.writeBitstring_freeReads (s : State) (out : Bitstring) : (s.writeBitstring out).freeReads = s.freeReads := rfl
@[simp] theorem State.writeBitstring_latch (s : State) (out : Bitstring) : (s.writeBitstring out).latch = s.latch := rfl
@[simp] theorem State.writeBitstring_done (s : State) (out : Bitstring) : (s.writeBitstring out).done = s.done := rfl
@[simp] theorem State.writeBitstring_trunc (s : State) (out : Bitstring) : (s.writeBitstring out).trunc = s.trunc := rfl
@[simp] theorem State.writeBitstring_codeValid (s : State) (out : Bitstring) : (s.writeBitstring out).codeValid = s.codeValid := rfl
@[simp] theorem State.writeBitstring_hostErr (s : State) (out : Bitstring) : (s.writeBitstring out).hostErr = s.hostErr := rfl
@[simp] theorem State.writeBitstring_errCode (s : State) (out : Bitstring) : (s.writeBitstring out).errCode = s.errCode := rfl
@[simp] theorem State.writeBitstring_irqEn (s : State) (out : Bitstring) : (s.writeBitstring out).irqEn = s.irqEn := rfl
@[simp] theorem State.writeBitstring_textLen (s : State) (out : Bitstring) : (s.writeBitstring out).textLen = s.textLen := rfl
@[simp] theorem State.writeBitstring_bitLen (s : State) (out : Bitstring) : (s.writeBitstring out).bitLen = BitVec.ofNat 24 out.length := rfl
@[simp] theorem State.writeBitstring_pixCount (s : State) (out : Bitstring) : (s.writeBitstring out).pixCount = s.pixCount := rfl
@[simp] theorem State.writeBitstring_symCount (s : State) (out : Bitstring) : (s.writeBitstring out).symCount = s.symCount := rfl
@[simp] theorem State.writeBitstring_nodeCount (s : State) (out : Bitstring) : (s.writeBitstring out).nodeCount = s.nodeCount := rfl
@[simp] theorem State.writeBitstring_root (s : State) (out : Bitstring) : (s.writeBitstring out).root = s.root := rfl
@[simp] theorem State.writeBitstring_errInfo0 (s : State) (out : Bitstring) : (s.writeBitstring out).errInfo0 = s.errInfo0 := rfl
@[simp] theorem State.writeBitstring_errInfo1 (s : State) (out : Bitstring) : (s.writeBitstring out).errInfo1 = s.errInfo1 := rfl
@[simp] theorem State.writeBitstring_dangleStart (s : State) (out : Bitstring) : (s.writeBitstring out).dangleStart = s.dangleStart := rfl
@[simp] theorem State.writeBitstring_dangleLen (s : State) (out : Bitstring) : (s.writeBitstring out).dangleLen = s.dangleLen := rfl
@[simp] theorem State.writeBitstring_memSel (s : State) (out : Bitstring) : (s.writeBitstring out).memSel = s.memSel := rfl
@[simp] theorem State.writeBitstring_memAddr (s : State) (out : Bitstring) : (s.writeBitstring out).memAddr = s.memAddr := rfl
@[simp] theorem State.writeBitstring_freq (s : State) (out : Bitstring) : (s.writeBitstring out).freq = s.freq := rfl
@[simp] theorem State.writeBitstring_rom (s : State) (out : Bitstring) : (s.writeBitstring out).rom = s.rom := rfl
@[simp] theorem State.writeBitstring_node (s : State) (out : Bitstring) : (s.writeBitstring out).node = s.node := rfl
@[simp] theorem State.writeBitstring_text (s : State) (out : Bitstring) : (s.writeBitstring out).text = s.text := rfl
@[simp] theorem State.writeBitstring_bits (s : State) (out : Bitstring) : (s.writeBitstring out).bits = Memory.writeAll s.bits 0 out := rfl
@[simp] theorem State.writeBitstring_pix (s : State) (out : Bitstring) : (s.writeBitstring out).pix = s.pix := rfl

@[simp] theorem State.writeTree_cfg (s : State) (used : List Node) (root : Nat) : (s.writeTree used root).cfg = s.cfg := rfl
@[simp] theorem State.writeTree_agenda (s : State) (used : List Node) (root : Nat) : (s.writeTree used root).agenda = s.agenda := rfl
@[simp] theorem State.writeTree_rst (s : State) (used : List Node) (root : Nat) : (s.writeTree used root).rst = s.rst := rfl
@[simp] theorem State.writeTree_rdata (s : State) (used : List Node) (root : Nat) : (s.writeTree used root).rdata = s.rdata := rfl
@[simp] theorem State.writeTree_freeReads (s : State) (used : List Node) (root : Nat) : (s.writeTree used root).freeReads = s.freeReads := rfl
@[simp] theorem State.writeTree_latch (s : State) (used : List Node) (root : Nat) : (s.writeTree used root).latch = s.latch := rfl
@[simp] theorem State.writeTree_done (s : State) (used : List Node) (root : Nat) : (s.writeTree used root).done = s.done := rfl
@[simp] theorem State.writeTree_trunc (s : State) (used : List Node) (root : Nat) : (s.writeTree used root).trunc = s.trunc := rfl
@[simp] theorem State.writeTree_codeValid (s : State) (used : List Node) (root : Nat) : (s.writeTree used root).codeValid = true := rfl
@[simp] theorem State.writeTree_hostErr (s : State) (used : List Node) (root : Nat) : (s.writeTree used root).hostErr = s.hostErr := rfl
@[simp] theorem State.writeTree_errCode (s : State) (used : List Node) (root : Nat) : (s.writeTree used root).errCode = s.errCode := rfl
@[simp] theorem State.writeTree_irqEn (s : State) (used : List Node) (root : Nat) : (s.writeTree used root).irqEn = s.irqEn := rfl
@[simp] theorem State.writeTree_textLen (s : State) (used : List Node) (root : Nat) : (s.writeTree used root).textLen = s.textLen := rfl
@[simp] theorem State.writeTree_bitLen (s : State) (used : List Node) (root : Nat) : (s.writeTree used root).bitLen = s.bitLen := rfl
@[simp] theorem State.writeTree_pixCount (s : State) (used : List Node) (root : Nat) : (s.writeTree used root).pixCount = s.pixCount := rfl
@[simp] theorem State.writeTree_symCount (s : State) (used : List Node) (root : Nat) : (s.writeTree used root).symCount = BitVec.ofNat 9 s.presentInFreq.length := rfl
@[simp] theorem State.writeTree_nodeCount (s : State) (used : List Node) (root : Nat) : (s.writeTree used root).nodeCount = BitVec.ofNat 10 used.length := rfl
@[simp] theorem State.writeTree_root (s : State) (used : List Node) (root : Nat) : (s.writeTree used root).root = BitVec.ofNat 9 root := rfl
@[simp] theorem State.writeTree_errInfo0 (s : State) (used : List Node) (root : Nat) : (s.writeTree used root).errInfo0 = s.errInfo0 := rfl
@[simp] theorem State.writeTree_errInfo1 (s : State) (used : List Node) (root : Nat) : (s.writeTree used root).errInfo1 = s.errInfo1 := rfl
@[simp] theorem State.writeTree_dangleStart (s : State) (used : List Node) (root : Nat) : (s.writeTree used root).dangleStart = s.dangleStart := rfl
@[simp] theorem State.writeTree_dangleLen (s : State) (used : List Node) (root : Nat) : (s.writeTree used root).dangleLen = s.dangleLen := rfl
@[simp] theorem State.writeTree_memSel (s : State) (used : List Node) (root : Nat) : (s.writeTree used root).memSel = s.memSel := rfl
@[simp] theorem State.writeTree_memAddr (s : State) (used : List Node) (root : Nat) : (s.writeTree used root).memAddr = s.memAddr := rfl
@[simp] theorem State.writeTree_freq (s : State) (used : List Node) (root : Nat) : (s.writeTree used root).freq = s.freq := rfl
@[simp] theorem State.writeTree_rom (s : State) (used : List Node) (root : Nat) : (s.writeTree used root).rom = romOf (assignCodes used used.length root []) := rfl
@[simp] theorem State.writeTree_node (s : State) (used : List Node) (root : Nat) : (s.writeTree used root).node = arenaOf used := rfl
@[simp] theorem State.writeTree_text (s : State) (used : List Node) (root : Nat) : (s.writeTree used root).text = s.text := rfl
@[simp] theorem State.writeTree_bits (s : State) (used : List Node) (root : Nat) : (s.writeTree used root).bits = s.bits := rfl
@[simp] theorem State.writeTree_pix (s : State) (used : List Node) (root : Nat) : (s.writeTree used root).pix = s.pix := rfl

@[simp] theorem State.applyReset_cfg (s : State) : s.applyReset.cfg = s.cfg := rfl
@[simp] theorem State.applyReset_agenda (s : State) : s.applyReset.agenda = s.agenda := rfl
@[simp] theorem State.applyReset_rst (s : State) : s.applyReset.rst = true := rfl
@[simp] theorem State.applyReset_rdata (s : State) : s.applyReset.rdata = s.rdata := rfl
@[simp] theorem State.applyReset_freeReads (s : State) : s.applyReset.freeReads = s.freeReads := rfl
@[simp] theorem State.applyReset_latch (s : State) : s.applyReset.latch = none := rfl
@[simp] theorem State.applyReset_done (s : State) : s.applyReset.done = false := rfl
@[simp] theorem State.applyReset_trunc (s : State) : s.applyReset.trunc = false := rfl
@[simp] theorem State.applyReset_codeValid (s : State) : s.applyReset.codeValid = false := rfl
@[simp] theorem State.applyReset_hostErr (s : State) : s.applyReset.hostErr = false := rfl
@[simp] theorem State.applyReset_errCode (s : State) : s.applyReset.errCode = 0 := rfl
@[simp] theorem State.applyReset_irqEn (s : State) : s.applyReset.irqEn = false := rfl
@[simp] theorem State.applyReset_textLen (s : State) : s.applyReset.textLen = 0 := rfl
@[simp] theorem State.applyReset_bitLen (s : State) : s.applyReset.bitLen = 0 := rfl
@[simp] theorem State.applyReset_pixCount (s : State) : s.applyReset.pixCount = 0 := rfl
@[simp] theorem State.applyReset_symCount (s : State) : s.applyReset.symCount = 0 := rfl
@[simp] theorem State.applyReset_nodeCount (s : State) : s.applyReset.nodeCount = 0 := rfl
@[simp] theorem State.applyReset_root (s : State) : s.applyReset.root = nodeNone := rfl
@[simp] theorem State.applyReset_errInfo0 (s : State) : s.applyReset.errInfo0 = 0 := rfl
@[simp] theorem State.applyReset_errInfo1 (s : State) : s.applyReset.errInfo1 = 0 := rfl
@[simp] theorem State.applyReset_dangleStart (s : State) : s.applyReset.dangleStart = 0 := rfl
@[simp] theorem State.applyReset_dangleLen (s : State) : s.applyReset.dangleLen = 0 := rfl
@[simp] theorem State.applyReset_memSel (s : State) : s.applyReset.memSel = 0 := rfl
@[simp] theorem State.applyReset_memAddr (s : State) : s.applyReset.memAddr = 0 := rfl
@[simp] theorem State.applyReset_freq (s : State) : s.applyReset.freq = Vector.replicate 256 0 := rfl
@[simp] theorem State.applyReset_rom (s : State) : s.applyReset.rom = Vector.replicate 256 CodeEntry.zero := rfl
@[simp] theorem State.applyReset_node (s : State) : s.applyReset.node = Vector.replicate 511 Node.zero := rfl
@[simp] theorem State.applyReset_text (s : State) : s.applyReset.text = [] := rfl
@[simp] theorem State.applyReset_bits (s : State) : s.applyReset.bits = [] := rfl
@[simp] theorem State.applyReset_pix (s : State) : s.applyReset.pix = [] := rfl

@[simp] theorem State.busy_eq (s : State) : s.busy = s.latch.isSome := rfl

@[simp] theorem State.reset_cfg : State.reset.cfg = Params.reference := rfl

end Sys2Proof.Machine
end

