-- ==== Sys2Proof/Laws/Ops.lean ====
section
/-! SUPPORT. What the end of a command can be. -/

namespace Sys2Proof.Machine

@[simp] theorem State.finish_ok (s s' : State) : s.finish (.ok s') = .next s'.complete := rfl

@[simp] theorem State.finish_raised (s : State) (e : CmdError) :
    s.finish (.error (.raised e)) = .next (s.raise e) := rfl

@[simp] theorem State.finish_fault (s : State) (f : Fault) :
    s.finish (.error (.fault f)) = .fault f := rfl

/-- A command that answers a next state either succeeded, and its writes are completed, or raised an
error, and only the error and completion fields changed. -/
theorem State.finish_next_iff {s t : State} {r : Except Halt State} :
    s.finish r = .next t ↔
      (∃ s', r = .ok s' ∧ t = s'.complete) ∨ (∃ e, r = .error (.raised e) ∧ t = s.raise e) := by
  rcases r with (e | f) | s'
  · simp [eq_comm]
  · simp
  · simp [eq_comm]

/-- A command never refuses. -/
theorem State.finish_not_refused (s : State) (r : Except Halt State) (q : Refusal) :
    s.finish r ≠ .refused q := by
  rcases r with (e | f) | s' <;> simp

/-- No error has code 0 or a reserved code (60_exceptions.md R250). -/
theorem CmdError.code_range (e : CmdError) : 1 ≤ e.code.toNat ∧ e.code.toNat ≤ 8 := by
  cases e <;> simp [CmdError.code]

end Sys2Proof.Machine
end

