-- ==== Sys2Proof/Laws/Commands.lean ====
section
/-! SUPPORT. What each command rule can answer: its success, its errors, its faults, once each. -/

namespace Sys2Proof.Machine

/-- The text operand reads exactly the bytes at 0, 1, …. -/
theorem State.textOperand_ok_iff {s : State} {text : List Symbol} :
    s.textOperand = .ok text ↔ text.length = s.textLen.toNat ∧
      ∀ i, (h : i < text.length) → Memory.read s.text i = some text[i] := by
  simp [State.textOperand, Memory.readRange_ok_iff]

/-- The bit operand reads exactly the bits at 0, 1, …. -/
theorem State.bitOperand_ok_iff {s : State} {input : Bitstring} :
    s.bitOperand = .ok input ↔ input.length = s.bitLen.toNat ∧
      ∀ i, (h : i < input.length) → Memory.read s.bits i = some input[i] := by
  simp [State.bitOperand, Memory.readRange_ok_iff]

/-- A pixel operand reads exactly the bytes of its range. -/
theorem State.pixelOperand_ok_iff {s : State} {a n : Nat} {bytes : List Byte} :
    s.pixelOperand a n = .ok bytes ↔ bytes.length = n ∧
      ∀ i, (h : i < bytes.length) → Memory.read s.pix (a + i) = some bytes[i] := by
  simp [State.pixelOperand, Memory.readRange_ok_iff]

/-- FREQ succeeds: the text is in bounds, not empty and written, and the table is its tally. -/
theorem freqRule_ok_iff {s s' : State} :
    freqRule s = .ok s' ↔ s.textLen.toNat ≤ s.cfg.maxTextLen ∧ s.textLen ≠ 0 ∧
      ∃ text, s.textOperand = .ok text ∧ s' = { s with freq := tally text } := by
  unfold freqRule
  by_cases h : s.cfg.maxTextLen < s.textLen.toNat
  · rw [if_pos h]
    exact ⟨fun h' => (by cases h'), fun h' => absurd h'.1 (by omega)⟩
  · rw [if_neg h]
    by_cases h0 : s.textLen = 0
    · rw [if_pos h0]
      exact ⟨fun h' => (by cases h'), fun h' => absurd h0 h'.2.1⟩
    · rw [if_neg h0]
      cases s.textOperand with
      | error f => exact ⟨fun h' => (by cases h'), fun ⟨_, _, _, h', _⟩ => (by cases h')⟩
      | ok text =>
        constructor
        · intro h'; cases h'; exact ⟨by omega, h0, text, rfl, rfl⟩
        · rintro ⟨_, _, _, h', rfl⟩; cases h'; rfl

/-- FREQ raises: a text beyond the memory, or an empty one. -/
theorem freqRule_raised_iff {s : State} {e : CmdError} :
    freqRule s = .error (.raised e) ↔
      (s.cfg.maxTextLen < s.textLen.toNat ∧ e = .parameter s.textLen.toNat s.cfg.maxTextLen) ∨
      (s.textLen = 0 ∧ e = .emptyInput) := by
  unfold freqRule
  by_cases h : s.cfg.maxTextLen < s.textLen.toNat
  · rw [if_pos h]
    have h0 : s.textLen ≠ 0 := by rintro h0; rw [h0] at h; exact absurd h (by simp)
    constructor
    · intro h'; cases h'; exact .inl ⟨h, rfl⟩
    · rintro (⟨_, rfl⟩ | ⟨h', _⟩)
      · rfl
      · exact absurd h' h0
  · rw [if_neg h]
    by_cases h0 : s.textLen = 0
    · rw [if_pos h0]
      constructor
      · intro h'; cases h'; exact .inr ⟨h0, rfl⟩
      · rintro (⟨h', _⟩ | ⟨_, rfl⟩)
        · exact absurd h' h
        · rfl
    · rw [if_neg h0]
      constructor
      · intro h'; cases ht : s.textOperand <;> rw [ht] at h' <;> cases h'
      · rintro (⟨h', _⟩ | ⟨h', _⟩)
        · exact absurd h' h
        · exact absurd h' h0

/-- BUILD never stops: it raises on an all-zero table and otherwise writes the tree. -/
theorem buildRule_eq (s : State) :
    (s.presentInFreq = [] ∧ buildRule s = .error (.raised .emptyInput)) ∨
      (s.presentInFreq ≠ [] ∧
        buildRule s = .ok (s.writeTree (buildTree s.leaves).1 (buildTree s.leaves).2)) := by
  unfold buildRule
  by_cases h : s.presentInFreq = [] <;> simp [h]

/-- COMMIT_TABLE never stops: it raises the first failing check or commits. -/
theorem commitRule_eq (s : State) :
    (∃ e, s.tableFault = some e ∧ commitRule s = .error (.raised e)) ∨
      (s.tableFault = none ∧ commitRule s =
        .ok { s with codeValid := true, symCount := BitVec.ofNat 9 s.presentInRom.length }) := by
  unfold commitRule
  cases s.tableFault <;> simp

/-- ENCODE succeeds: the text is in bounds, every symbol has a code and the output fits. -/
theorem encodeRule_ok_iff {s s' : State} :
    encodeRule s = .ok s' ↔ s.textLen.toNat ≤ s.cfg.maxTextLen ∧
      ∃ out, s.encodeFrom 0 s.textLen.toNat = .ok out ∧ out.length ≤ maxBits ∧
        s' = s.writeBitstring out := by
  unfold encodeRule
  by_cases h : s.cfg.maxTextLen < s.textLen.toNat
  · rw [if_pos h]
    exact ⟨fun h' => (by cases h'), fun h' => absurd h'.1 (by omega)⟩
  · rw [if_neg h]
    cases s.encodeFrom 0 s.textLen.toNat with
    | error e => exact ⟨fun h' => (by cases h'), fun ⟨_, _, h', _⟩ => (by cases h')⟩
    | ok out =>
      by_cases ho : maxBits < out.length
      · simp only [if_pos ho]
        refine ⟨fun h' => (by cases h'), ?_⟩
        rintro ⟨_, _, h', hl, _⟩
        cases h'
        exact absurd ho (by omega)
      · simp only [if_neg ho]
        constructor
        · intro h'; cases h'; exact ⟨by omega, out, rfl, by omega, rfl⟩
        · rintro ⟨_, _, h', _, rfl⟩; cases h'; rfl

/-- DECODE succeeds: a committed table, written bits and a text that fits. -/
theorem decodeRule_ok_iff {s s' : State} :
    decodeRule s = .ok s' ↔ s.codeValid = true ∧
      ∃ input, s.bitOperand = .ok input ∧
        (s.decodeBits input).out.length ≤ s.cfg.maxTextLen ∧
        s' = s.writeDecoded (s.decodeBits input) := by
  unfold decodeRule
  split
  · simp_all
  · rename_i h
    cases s.bitOperand with
    | error f => simp
    | ok input =>
      by_cases ho : s.cfg.maxTextLen < (s.decodeBits input).out.length
      · simp [ho]
      · simp [ho, eq_comm, Nat.le_of_not_lt ho, h]

/-- EMBED succeeds: the stream fits the buffer, bits and pixels are written. -/
theorem embedRule_ok_iff {s s' : State} :
    embedRule s = .ok s' ↔ s.pixCount.toNat ≤ s.cfg.maxPixels ∧
      hdrBits + s.bitLen.toNat ≤ s.slots ∧
      ∃ payload bytes, s.bitOperand = .ok payload ∧
        s.pixelOperand 0 (hdrBits + s.bitLen.toNat) = .ok bytes ∧
        s' = { s with
          pix := Memory.writeAll s.pix 0 (List.zipWith setLsb bytes (embedStream s.bitLen payload)) } := by
  unfold embedRule
  by_cases h : s.cfg.maxPixels < s.pixCount.toNat
  · rw [if_pos h]
    exact ⟨fun h' => (by cases h'), fun h' => absurd h'.1 (by omega)⟩
  · rw [if_neg h]
    by_cases h2 : s.slots < hdrBits + s.bitLen.toNat
    · rw [if_pos h2]
      exact ⟨fun h' => (by cases h'), fun h' => absurd h'.2.1 (by omega)⟩
    · rw [if_neg h2]
      cases s.bitOperand with
      | error f => exact ⟨fun h' => (by cases h'), fun ⟨_, _, _, _, h', _⟩ => (by cases h')⟩
      | ok payload =>
        cases s.pixelOperand 0 (hdrBits + s.bitLen.toNat) with
        | error f => exact ⟨fun h' => (by cases h'), fun ⟨_, _, _, _, _, h', _⟩ => (by cases h')⟩
        | ok bytes =>
          constructor
          · intro h'; cases h'; exact ⟨by omega, by omega, payload, bytes, rfl, rfl, rfl⟩
          · rintro ⟨_, _, _, _, h3, h4, rfl⟩; cases h3; cases h4; rfl

/-- EXTRACT succeeds: a header that fits the buffer, and written slots. -/
theorem extractRule_ok_iff {s s' : State} :
    extractRule s = .ok s' ↔ s.pixCount.toNat ≤ s.cfg.maxPixels ∧ hdrBits ≤ s.slots ∧
      ∃ header bytes, s.pixelOperand 0 hdrBits = .ok header ∧
        bitsVal (header.map lsb) ≤ s.slots - hdrBits ∧
        s.pixelOperand hdrBits (bitsVal (header.map lsb)) = .ok bytes ∧
        s' = { s with
          bits := Memory.writeAll s.bits 0 (bytes.map lsb)
          bitLen := BitVec.ofNat 24 (bitsVal (header.map lsb)) } := by
  unfold extractRule
  by_cases h : s.cfg.maxPixels < s.pixCount.toNat
  · rw [if_pos h]
    exact ⟨fun h' => (by cases h'), fun h' => absurd h'.1 (by omega)⟩
  · rw [if_neg h]
    by_cases h2 : s.slots < hdrBits
    · rw [if_pos h2]
      exact ⟨fun h' => (by cases h'), fun h' => absurd h'.2.1 (by omega)⟩
    · rw [if_neg h2]
      cases s.pixelOperand 0 hdrBits with
      | error f => exact ⟨fun h' => (by cases h'), fun ⟨_, _, _, _, h', _⟩ => (by cases h')⟩
      | ok header =>
        by_cases hl : s.slots - hdrBits < bitsVal (header.map lsb)
        · simp only [if_pos hl]
          refine ⟨fun h' => (by cases h'), ?_⟩
          rintro ⟨_, _, _, _, h', hle, _⟩
          cases h'
          exact absurd hl (by omega)
        · simp only [if_neg hl]
          constructor
          · intro h'
            cases hb : s.pixelOperand hdrBits (bitsVal (header.map lsb)) with
            | error f => rw [hb] at h'; cases h'
            | ok bytes =>
              rw [hb] at h'; cases h'
              exact ⟨by omega, by omega, header, bytes, rfl, by omega, hb, rfl⟩
          · rintro ⟨_, _, _, bytes, h', _, hb, rfl⟩; cases h'; rw [hb]

end Sys2Proof.Machine
end

