-- ==== Sys2Proof/Laws/HostBus.lean ====
section
/-! SUPPORT. What a host transaction can do. -/

namespace Sys2Proof.Machine

/-- The register map and its offsets agree (10_state.md R32). -/
@[simp] theorem regAt_offset (r : Reg) : regAt r.offset = some r := by cases r <;> rfl

/-- Every register's offset is aligned (20_memory.md R82). -/
@[simp] theorem alignedWord_read_offset (r : Reg) : (HostTxn.read r.offset 0xF).alignedWord = true := by
  cases r <;> rfl

@[simp] theorem alignedWord_write_offset (r : Reg) (w : Word) :
    (HostTxn.write r.offset 0xF w).alignedWord = true := by
  cases r <;> rfl

/-- One of three things: the access is not an aligned word, it is dropped while busy, or it is
performed. -/
theorem hostTransaction_cases (t : HostTxn) (s : State) :
    (t.alignedWord = false ∧ hostTransaction t s = .next (misaligned t s)) ∨
    (t.alignedWord = true ∧ s.busy = true ∧ t.allowedBusy = false ∧
      hostTransaction t s = .next (droppedBusy t s)) ∨
    (t.alignedWord = true ∧ (s.busy = false ∨ t.allowedBusy = true) ∧
      hostTransaction t s = perform t s) := by
  unfold hostTransaction
  cases t.alignedWord <;> cases s.busy <;> cases t.allowedBusy <;> simp

/-- A performed access of an idle block. -/
theorem hostTransaction_idle {t : HostTxn} {s : State} (ha : t.alignedWord = true)
    (hi : s.latch = none) : hostTransaction t s = perform t s := by
  simp [hostTransaction, ha, State.busy, hi]

/-- A window read: out of range, a word, or a fault. -/
theorem readMemData_cases (s : State) :
    (s.windowInRange = none ∧
      readMemData s = .next ((s.flagHostErr.deliver 0).advanceMemAddr)) ∨
    (∃ win w, s.windowInRange = some win ∧ s.windowRead win s.memAddr.toNat = .ok w ∧
      readMemData s = .next ((s.deliver w).advanceMemAddr)) ∨
    (∃ win f, s.windowInRange = some win ∧ s.windowRead win s.memAddr.toNat = .error f ∧
      readMemData s = .fault f) := by
  unfold readMemData
  cases s.windowInRange with
  | none => simp
  | some win => cases h : s.windowRead win s.memAddr.toNat <;> simp [h]

/-- The selected memory is in range exactly when its word count exceeds `MEM_ADDR`
(20_memory.md R87). -/
theorem State.windowInRange_eq_some_iff {s : State} {win : Window} :
    s.windowInRange = some win ↔
      windowOf s.memSel = some win ∧ s.memAddr.toNat < win.words s.cfg := by
  unfold State.windowInRange
  cases windowOf s.memSel with
  | none => simp
  | some w =>
    by_cases h : s.memAddr.toNat < w.words s.cfg
    · simp only [h, if_true, Option.some.injEq]
      constructor
      · rintro rfl; exact ⟨rfl, h⟩
      · exact fun ⟨h, _⟩ => h
    · simp only [h, if_false, Option.some.injEq]
      constructor
      · intro h'; cases h'
      · rintro ⟨rfl, h'⟩; exact absurd h' h

/-- The selection and the selector agree (10_state.md R49). -/
@[simp] theorem windowOf_sel (w : Window) : windowOf w.sel = some w := by cases w <;> rfl

end Sys2Proof.Machine
end

