-- ==== Sys2Proof/Laws/PerInstr.lean ====
section
/-! SUPPORT. A statement about every command, proved one command at a time. -/

namespace Sys2Proof.Laws

/-- The word of a command has `ZERO` clear and its opcode in [3:0], an opcode the map assigns to it
(30_encoding.md R120, R122). -/
def WordForm.Statement (i : Instr) : Prop :=
  (encode i).extractLsb' 4 28 = 0 ∧ (encode i).extractLsb' 0 4 = opcodeOf i ∧
    commandOf (opcodeOf i) = some i ∧ i.wf = true

theorem WordForm.nop : WordForm.Statement .nop := by unfold WordForm.Statement; decide
theorem WordForm.freq : WordForm.Statement .freq := by unfold WordForm.Statement; decide
theorem WordForm.build : WordForm.Statement .build := by unfold WordForm.Statement; decide
theorem WordForm.encode : WordForm.Statement .encode := by unfold WordForm.Statement; decide
theorem WordForm.decode : WordForm.Statement .decode := by unfold WordForm.Statement; decide
theorem WordForm.embed : WordForm.Statement .embed := by unfold WordForm.Statement; decide
theorem WordForm.extract : WordForm.Statement .extract := by unfold WordForm.Statement; decide
theorem WordForm.commitTable : WordForm.Statement .commitTable := by
  unfold WordForm.Statement; decide

end Sys2Proof.Laws
end

