-- ==== Sys2Proof/Laws/Step.lean ====
section
/-! SUPPORT. What a step can be. -/

namespace Sys2Proof.Machine

/-- A step that answers a next state has an admitted configuration and took the next turn. -/
theorem step_next_iff {s t : State} :
    step s = .next t ↔ s.cfg.wf = true ∧ nextTurn s = .next t := by
  unfold step
  cases s.cfg.wf <;> simp

/-- The Engine's turn: nothing (held in reset, or idle), or the completion of the latched word. -/
theorem engineTurn_cases (s : State) :
    (s.rst = true ∧ engineTurn s = .next s) ∨
    (s.rst = false ∧ s.latch = none ∧ engineTurn s = .next s) ∨
    (∃ w, s.rst = false ∧ s.latch = some w ∧ engineTurn s = completeWord w s) := by
  unfold engineTurn
  cases s.rst <;> cases s.latch <;> simp

/-- The completion of a word: a command, or `ILLEGAL_COMMAND` (46_control.md R236, R238). -/
theorem completeWord_cases (w : Word) (s : State) :
    (∃ i, decode w = .ok i ∧ completeWord w s = exec i s) ∨
    (∃ r, decode w = .error r ∧ completeWord w s = .next (s.raise (.illegalCommand w))) := by
  unfold completeWord
  cases decode w with
  | error r => exact .inr ⟨r, rfl, rfl⟩
  | ok i => exact .inl ⟨i, rfl, rfl⟩

/-- A turn of the agenda: the Engine's when it is empty, its first entry otherwise. -/
theorem nextTurn_cases (s : State) :
    (s.agenda = [] ∧ nextTurn s = engineTurn s) ∨
    (∃ e rest, s.agenda = e :: rest ∧ nextTurn s = takeTurn e { s with agenda := rest }) := by
  unfold nextTurn
  cases h : s.agenda with
  | nil => simp
  | cons e rest => simp

/-- Everything a step that answers a next state can be: a turn of the Engine, a transaction of the Host, or
a level of `rst`, each on the state with that turn taken off the agenda. -/
theorem step_next_cases {s t : State} (h : step s = .next t) :
    s.cfg.wf = true ∧
    (((s.agenda = [] ∨ ∃ rest, s.agenda = .engine :: rest) ∧
        engineTurn { s with agenda := s.agenda.tail } = .next t) ∨
      (∃ x rest, s.agenda = .host x :: rest ∧ hostTurn x { s with agenda := rest } = .next t) ∨
      (∃ level rest, s.agenda = .rst level :: rest ∧ t = rstTurn level { s with agenda := rest })) := by
  obtain ⟨hc, h⟩ := step_next_iff.mp h
  refine ⟨hc, ?_⟩
  rcases nextTurn_cases s with ⟨ha, hn⟩ | ⟨e, rest, ha, hn⟩
  · have hs : { s with agenda := s.agenda.tail } = s := by cases s; cases ha; rfl
    exact .inl ⟨.inl ha, by rw [hs, ← hn, h]⟩
  · rw [hn] at h
    cases e with
    | host x => exact .inr (.inl ⟨x, rest, ha, h⟩)
    | engine => exact .inl ⟨.inr ⟨rest, ha⟩, by rw [ha]; exact h⟩
    | rst level => exact .inr (.inr ⟨level, rest, ha, (Host.Outcome.next.inj h).symm⟩)

/-- No command refuses. -/
theorem exec_not_refused (i : Instr) (s : State) (q : Refusal) : exec i s ≠ .refused q := by
  cases i
  · exact State.finish_not_refused s (.ok s) q
  · exact State.finish_not_refused s (freqRule s) q
  · exact State.finish_not_refused s (buildRule s) q
  · exact State.finish_not_refused s (encodeRule s) q
  · exact State.finish_not_refused s (decodeRule s) q
  · exact State.finish_not_refused s (embedRule s) q
  · exact State.finish_not_refused s (extractRule s) q
  · exact State.finish_not_refused s (commitRule s) q

end Sys2Proof.Machine
end

