-- ==== Sys2Proof/Machine/HostProgram.lean ====
section
/-! DEFINITION. The host-program notation of 30_encoding.md R126 to R128: primitive and pseudo-operations
as agenda entries. -/

namespace Sys2Proof.Machine

/-- `WR <reg>, <v>` (30_encoding.md R126). -/
def hostWr (r : Reg) (v : Word) : Event := .host (.write r.offset 0xF v)

/-- `RD <reg>` (30_encoding.md R126). -/
def hostRd (r : Reg) : Event := .host (.read r.offset 0xF)

/-- `CMD <mnemonic>` (30_encoding.md R127). -/
def hostCmd (i : Instr) : Event := hostWr .cmd (encode i)

/-- `WAIT` (30_encoding.md R127) when the first `polls` reads of `STATUS` come before the completion: then
the Engine's turn, and the read that sees `BUSY = 0` (log 14). -/
def hostWait (polls : Nat) : List Event :=
  List.replicate polls (hostRd .status) ++ [.engine, hostRd .status]

/-- `RUN <mnemonic>` (30_encoding.md R127). -/
def hostRun (i : Instr) (polls : Nat) : List Event := hostCmd i :: hostWait polls

/-- `CLRDONE` (30_encoding.md R127). -/
def hostClrDone : Event := hostWr .status 0x2

/-- Setting the window (30_encoding.md R127). -/
def hostWindow (m : Window) (w : Word) : List Event :=
  [hostWr .memSel (m.sel.setWidth 32), hostWr .memAddr w]

/-- `MEMWR <mem>, <w>, v0, …` (30_encoding.md R127). -/
def hostMemWr (m : Window) (w : Word) (vs : List Word) : List Event :=
  hostWindow m w ++ vs.map (hostWr .memData)

/-- `MEMRD <mem>, <w>, <n>` (30_encoding.md R127). -/
def hostMemRd (m : Window) (w : Word) (n : Nat) : List Event :=
  hostWindow m w ++ List.replicate n (hostRd .memData)

/-- `SETCODE <s>, <L>, <v>` (30_encoding.md R127): the length, then eight words of the value. -/
def hostSetCode (c : Symbol) (len : BitVec 8) (v : BitVec 256) : List Event :=
  hostMemWr .codeRom (BitVec.ofNat 32 (16 * c.toNat))
    (len.setWidth 32 :: (List.range 8).map fun m => v.extractLsb' (32 * m) 32)

/-- Bytes packed four a word, the last padded with zero bytes (30_encoding.md R127, 20_memory.md
R85). -/
def packText : List Byte → List Word
  | [] => []
  | [a] => [packBytes [a, 0, 0, 0]]
  | [a, b] => [packBytes [a, b, 0, 0]]
  | [a, b, c] => [packBytes [a, b, c, 0]]
  | a :: b :: c :: d :: rest => packBytes [a, b, c, d] :: packText rest

/-- `TEXTSTR <w>, "<chars>"` (30_encoding.md R127), given the characters' byte values (log 14). -/
def hostTextStr (w : Word) (bytes : List Byte) : List Event := hostMemWr .text w (packText bytes)

end Sys2Proof.Machine
end

