-- ==== Sys2Proof/Tests/Slice0.lean ====
section
/-! SUPPORT. Tests of single steps against the vectors of 95_test_vectors.md, and witnesses: for every
statement with hypotheses, a state that meets them. -/

namespace Sys2Proof.Machine.Tests

-- One theorem at a time: many at once would take a thread, and its stack, each.
set_option Elab.async false

/-! ### Well-formedness: each check refuses an ill-formed configuration -/

theorem test_wf_reference : Params.reference.wf = true := by decide
theorem test_wf_text_zero : Params.wf { Params.reference with maxTextLen := 0 } = false := by decide
theorem test_wf_text_large : Params.wf { Params.reference with maxTextLen := 2 ^ 24 } = false := by decide
theorem test_wf_pixels_small : Params.wf { Params.reference with maxPixels := 7 } = false := by decide
theorem test_wf_pixels_large : Params.wf { Params.reference with maxPixels := 2 ^ 30 } = false := by decide
theorem test_wf_base : Params.wf { Params.reference with base := 1 } = false := by decide
theorem test_wf_commands : ∀ i : Instr, i.wf = true := by intro i; cases i <;> rfl

/-! ### Decoding: the words of 30_encoding.md R122, written out bit by bit -/

theorem test_decode_nop : decode 0b00000000000000000000000000000000#32 = .ok .nop := by decide
theorem test_decode_freq : decode 0b00000000000000000000000000000001#32 = .ok .freq := by decide
theorem test_decode_build : decode 0b00000000000000000000000000000010#32 = .ok .build := by decide
theorem test_decode_encode : decode 0b00000000000000000000000000000011#32 = .ok .encode := by decide
theorem test_decode_decode : decode 0b00000000000000000000000000000100#32 = .ok .decode := by decide
theorem test_decode_embed : decode 0b00000000000000000000000000000101#32 = .ok .embed := by decide
theorem test_decode_extract : decode 0b00000000000000000000000000000110#32 = .ok .extract := by decide
theorem test_decode_commit : decode 0b00000000000000000000000000000111#32 = .ok .commitTable := by decide
theorem test_decode_reserved_opcode : decode 0x8 = .error .reservedOpcode := by decide
theorem test_decode_bit_4 : decode 0x10 = .error .reservedBitsSet := by decide
theorem test_decode_all_ones : decode 0xFFFFFFFF = .error .reservedBitsSet := by decide
theorem test_table_word : decodeTableWord 32 7 = some .commitTable ∧ decodeTableWord 8 3 = some .encode ∧
    decodeTableWord 32 8 = none := by decide

/-! ### One step each, from 95_test_vectors.md -/

/-- A field of the state after a command, when there is one. -/
def after {β : Type} (o : Host.Outcome State Fault Refusal) (f : State → β) : Option β :=
  match o with
  | .next t => some (f t)
  | .fault _ => none
  | .refused _ => none

/-- Consecutive values from address 0. -/
def memOf {α : Type} (vs : List α) : Memory α := vs.zipIdx.map fun p => (p.2, p.1)

/-- A state with these code-ROM entries. -/
def withCodes (s : State) (codes : List (Symbol × CodeEntry)) : State :=
  codes.foldl (fun s p => { s with rom := s.rom.set p.1.toNat p.2 p.1.isLt }) s

/-- A state with these counters. -/
def withFreqs (s : State) (fs : List (Symbol × BitVec 24)) : State :=
  fs.foldl (fun s p => { s with freq := s.freq.set p.1.toNat p.2 p.1.isLt }) s

/-- The bytes of "abracadabra". -/
def abracadabra : List Byte := [0x61, 0x62, 0x72, 0x61, 0x63, 0x61, 0x64, 0x61, 0x62, 0x72, 0x61]

/-- V-FREQ-1. -/
theorem test_freq : after (exec .freq { State.reset with text := memOf abracadabra, textLen := 11 })
    (fun t => ([t.freqOf 0x61, t.freqOf 0x62, t.freqOf 0x63, t.freqOf 0x64, t.freqOf 0x72, t.freqOf 0x7A],
      t.statusWord)) = some ([5, 2, 1, 1, 2, 0], 0x00000002) := by decide +kernel

/-- V-FREQ-4. -/
theorem test_freq_parameter : after (exec .freq { State.reset with textLen := 0x010001 })
    (fun t => (t.statusWord, t.errInfo0, t.errInfo1)) =
      some (0x00000702, 0x00010001, 0x00010000) := by decide +kernel

/-- V-BUILD-1: the counters of "abracadabra". -/
theorem test_build : after
    (exec .build (withFreqs State.reset [(0x61, 5), (0x62, 2), (0x63, 1), (0x64, 1), (0x72, 2)]))
    (fun t => ([t.entry 0x61, t.entry 0x62, t.entry 0x63, t.entry 0x64, t.entry 0x72],
      t.root, t.nodeCount, (t.nodeAt 7).word true, t.statusWord)) =
    some ([⟨1, 0⟩, ⟨3, 6⟩, ⟨3, 4⟩, ⟨3, 5⟩, ⟨3, 7⟩], 8, 9, 0x80000C05, 0x0000000A) := by decide +kernel

/-- V-BUILD-2: one symbol. -/
theorem test_build_single : after (exec .build (withFreqs State.reset [(0x61, 4)]))
    (fun t => (t.entry 0x61, t.root, t.nodeCount, (t.nodeAt 0).word true, (t.nodeAt 1).word true)) =
    some (⟨1, 0⟩, 1, 2, 0x0187FFFF, 0x8003FE00) := by decide +kernel

/-- The table of V-CT-1: a is "0", b is "10". -/
def twoCodes : State := withCodes State.reset [(0x61, ⟨1, 0⟩), (0x62, ⟨2, 2⟩)]

/-- V-CT-1. -/
theorem test_commit : after (exec .commitTable twoCodes) (fun t => (t.statusWord, t.symCount)) =
    some (0x0000000A, 2) := by decide +kernel

/-- V-CT-4: "0" is a prefix of "01". -/
theorem test_commit_clash : after
    (exec .commitTable (withCodes State.reset [(0x61, ⟨1, 0⟩), (0x62, ⟨2, 1⟩)]))
    (fun t => (t.statusWord, t.errInfo0, t.errInfo1)) =
      some (0x00000802, 3, 0x00620061) := by decide +kernel

/-- V-ENC-1 on the first three symbols: a b r = 0 110 111. -/
theorem test_encode : after
    (exec .encode { withCodes State.reset [(0x61, ⟨1, 0⟩), (0x62, ⟨3, 6⟩), (0x72, ⟨3, 7⟩)] with
      codeValid := true, text := memOf [0x61, 0x62, 0x72], textLen := 3 })
    (fun t => (t.bitLen, t.bits.map Prod.snd)) =
      some (7, [false, true, true, false, true, true, true]) := by decide +kernel

/-- V-ENC-8: the earliest unknown symbol. -/
theorem test_encode_unknown : after
    (exec .encode { twoCodes with codeValid := true, text := memOf [0x7A, 0x61, 0x7A], textLen := 3 })
    (fun t => (t.errCode, t.errInfo0, t.errInfo1)) = some (2, 0x7A, 0) := by decide +kernel

/-- V-DEC-2: "01" is a and a dangling "1". -/
theorem test_decode_truncated : after
    (exec .decode { twoCodes with codeValid := true, bits := memOf [false, true], bitLen := 2 })
    (fun t => (t.text, t.textLen, t.statusWord, t.dangleStart, t.dangleLen)) =
      some ([(0, 0x61)], 1, 0x0000000E, 1, 1) := by decide +kernel

/-- V-DEC-6: no resynchronisation. -/
theorem test_decode_no_match : after
    (exec .decode { twoCodes with
      codeValid := true, bits := memOf [true, true, false, false], bitLen := 4 })
    (fun t => (t.textLen, t.trunc, t.dangleStart, t.dangleLen)) = some (0, true, 0, 4) := by
  decide +kernel

/-- 45_lsb_channel.md R216, R221: length 1 is bit 23 of the header; the payload bit is slot 24. -/
theorem test_embed : after
    (exec .embed { State.reset with
      bits := [(0, true)], bitLen := 1, pixCount := 9
      pix := memOf (List.replicate 27 0x54) })
    (fun t => ((t.pix.filter fun p => p.2 != 0x54), t.statusWord)) =
      some ([(23, 0x55), (24, 0x55)], 0x00000002) := by decide +kernel

/-- 45_lsb_channel.md R220: 25 slots required, 24 available. -/
theorem test_embed_capacity : after
    (exec .embed { State.reset with bits := [(0, true)], bitLen := 1, pixCount := 8 })
    (fun t => (t.errCode, t.errInfo0, t.errInfo1, t.pix)) = some (3, 25, 24, []) := by decide +kernel

/-- 45_lsb_channel.md R225: length 3 in slots 22 and 23, then the payload 1, 0, 1. -/
theorem test_extract : after
    (exec .extract { State.reset with
      pixCount := 9, pix := memOf (List.replicate 22 0 ++ [1, 1, 0xFF, 0xFE, 3]) })
    (fun t => (t.bitLen, t.bits)) = some (3, [(0, true), (1, false), (2, true)]) := by decide +kernel

/-- 45_lsb_channel.md R227. -/
theorem test_extract_no_header : after (exec .extract { State.reset with pixCount := 7 })
    (fun t => (t.errCode, t.errInfo0, t.errInfo1)) = some (4, 0xFFFFFFFF, 21) := by decide +kernel

/-- 46_control.md R237: NOP clears `TRUNC` and `ERR_CODE`, and leaves `CODE_VALID` and `HOST_ERR`. -/
theorem test_nop : after
    (step (State.withFetchWord { State.reset with
      codeValid := true, hostErr := true, trunc := true, errCode := 3 } 32 0))
    State.statusWord = some 0x0000001A := by decide +kernel

/-- The worked example of 46_control.md R238. -/
theorem test_illegal : after (step (State.reset.withFetchWord 32 8))
    (fun t => (t.statusWord, t.errInfo0, t.errInfo1)) = some (0x00000602, 8, 0) := by decide +kernel

/-- V-HOST-3: `STATUS` is write-1-to-clear. -/
theorem test_w1c : after
    (hostTransaction (.write 0x008 0xF 0x00000010)
      { State.reset with done := true, codeValid := true, hostErr := true })
    State.statusWord = some 0x0000000A := by decide +kernel

/-- V-BUSY-1: a command word written while busy issues nothing. -/
theorem test_busy : after
    (hostTransaction (.write 0x004 0xF 2) { State.reset with latch := some 3, textLen := 11 })
    (fun t => (t.latch, t.textLen, t.statusWord)) = some (some 3, 11, 0x00000011) := by decide +kernel

/-! ### Witnesses: states that meet the hypotheses of the statements -/

/-- Pixel bytes whose first 24 least significant bits say length 4 (slot 21 is bit 2), then four payload
bytes. -/
def demoPixels : List Byte := List.replicate 21 0x54 ++ [0x55] ++ List.replicate 6 0x54

/-- The text "ab", its table committed, the bits of "ab" and a dangling "1", and a pixel buffer of 10
pixels, 28 bytes of it written. -/
def demo : State :=
  { withFreqs twoCodes [(0x61, 1), (0x62, 1)] with
    codeValid := true, symCount := 2
    text := memOf [0x61, 0x62], textLen := 2
    bits := memOf [false, true, false, true], bitLen := 4
    pix := memOf demoPixels, pixCount := 10 }

/-- Reading a table after a write. -/
theorem getElem_set_symbol {α : Type} (v : Vector α 256) (c d : Symbol) (x : α) :
    (v.set d.toNat x d.isLt)[c.toNat]'c.isLt = if c = d then x else v[c.toNat]'c.isLt := by
  rw [Vector.getElem_set]
  by_cases h : c = d
  · subst h; simp
  · rw [if_neg h, if_neg fun h' => h (BitVec.eq_of_toNat_eq h'.symm)]

/-- The entries of a table of two codes. -/
theorem entry_withCodes (c : Symbol) (e f : CodeEntry) :
    (withCodes State.reset [(0x61, e), (0x62, f)]).entry c =
      if c = 0x62 then f else if c = 0x61 then e else CodeEntry.zero := by
  show ((((Vector.replicate 256 CodeEntry.zero).set (0x61#8).toNat e (0x61#8).isLt).set
    (0x62#8).toNat f (0x62#8).isLt))[c.toNat]'c.isLt = _
  rw [getElem_set_symbol, getElem_set_symbol, Vector.getElem_replicate]
  rfl

theorem present_withCodes (c : Symbol) (e f : CodeEntry)
    (h : ((withCodes State.reset [(0x61, e), (0x62, f)]).entry c).present = true) :
    c = 0x61 ∨ c = 0x62 := by
  rw [entry_withCodes] at h
  by_cases h2 : c = 0x62
  · exact .inr h2
  · by_cases h1 : c = 0x61
    · exact .inl h1
    · rw [if_neg h2, if_neg h1] at h; exact absurd h (by decide)

/-- The counters of a table of two symbols. -/
theorem freqOf_withFreqs (s : State) (hs : s.freq = Vector.replicate 256 0) (c : Symbol)
    (m n : BitVec 24) :
    (withFreqs s [(0x61, m), (0x62, n)]).freqOf c =
      if c = 0x62 then n else if c = 0x61 then m else 0 := by
  show (((s.freq.set (0x61#8).toNat m (0x61#8).isLt).set (0x62#8).toNat n (0x62#8).isLt))[c.toNat]'c.isLt = _
  rw [getElem_set_symbol, getElem_set_symbol]
  simp only [hs, Vector.getElem_replicate]
  rfl

theorem demo_freqOf (c : Symbol) :
    demo.freqOf c = if c = 0x62 then 1 else if c = 0x61 then 1 else 0 :=
  freqOf_withFreqs twoCodes rfl c 1 1

theorem demo_symbols : (allSymbols.filter fun c => demo.freqOf c != 0) = [0x61, 0x62] := by
  simp only [demo_freqOf]; decide +kernel

theorem demo_present : ∀ c, (demo.entry c).present = true → c = 0x61 ∨ c = 0x62 :=
  fun c h => present_withCodes c ⟨1, 0⟩ ⟨2, 2⟩ h

theorem demo_prefix_code : demo.romIsPrefixCode := by
  refine ⟨⟨0x61, by decide +kernel⟩, fun c hc => ?_, fun c d hcd hc hd => ?_⟩
  · rcases demo_present c hc with rfl | rfl <;> decide +kernel
  · rcases demo_present c hc with rfl | rfl <;> rcases demo_present d hd with rfl | rfl
    · exact absurd rfl hcd
    · decide +kernel
    · decide +kernel
    · exact absurd rfl hcd

theorem demo_no_code : demo.noCodeIn [true] := by
  intro p hp hpre c hc
  have : p = [true] := by
    rcases p with - | ⟨b, - | ⟨b', p⟩⟩
    · exact absurd rfl hp
    · simpa using hpre
    · simp at hpre
  subst this
  rcases demo_present c hc with rfl | rfl <;> decide +kernel

theorem noCodeIn_nil (s : State) : s.noCodeIn [] := fun _ hp hpre => absurd (List.prefix_nil.mp hpre) hp

theorem witness_DecodeAndEncodeAgree :
    (Instr.commitTable.wf = true) ∧ decode 0x00000007 = .ok .commitTable := by decide

theorem witness_StepRunsTheLatchedCommand :
    let s := State.reset.withFetchWord 32 7
    s.cfg.wf = true ∧ s.rst = false ∧ s.latch = some 7 ∧ decode 7 = .ok .commitTable ∧
      Instr.commitTable.wf = true ∧ s.agenda = [.engine] ∧ { s with agenda := [] }.agenda = [] := by
  decide +kernel

theorem witness_IllegalWordCompletesWithIllegalCommand_opcode :
    let s := State.reset.withFetchWord 32 8
    s.cfg.wf = true ∧ s.rst = false ∧ s.latch = some 8 ∧
      ((8#32).extractLsb' 4 28 ≠ 0 ∨ 8 ≤ (8#32).toNat) ∧ s.agenda = [.engine] ∧
      { s with agenda := [] }.agenda = [] := by decide +kernel

theorem witness_IllegalWordCompletesWithIllegalCommand_reserved_bit :
    let s := State.reset.withFetchWord 32 16
    s.cfg.wf = true ∧ s.rst = false ∧ s.latch = some 16 ∧
      ((16#32).extractLsb' 4 28 ≠ 0 ∨ 8 ≤ (16#32).toNat) ∧ s.agenda = [.engine] ∧
      { s with agenda := [] }.agenda = [] := by decide +kernel

theorem witness_StepPresentsTheTransaction :
    let s := { State.reset with agenda := [hostRd .id] }
    s.cfg.wf = true ∧ s.agenda = [.host (.read 0x000 0xF)] ∧ s.rst = false ∧
      { s with rst := true }.agenda = s.agenda := by
  decide +kernel

theorem witness_ResetInputResetsTheBlock :
    let s := { State.reset with agenda := [.rst true], latch := some 2 }
    s.cfg.wf = true ∧ s.agenda = [.rst true] := by decide +kernel

/-- No input left: an idle block, a block held in reset, and a busy block. -/
theorem witness_EngineStepsOnlyWhenBusy_no_input :
    State.reset.cfg.wf = true ∧ State.reset.agenda = [] ∧ State.reset.latch = none ∧
      { State.reset with rst := true }.rst = true ∧
      step { State.reset with latch := some 0 } = .next (State.reset.ended 0 0 0) := by
  refine ⟨by decide, rfl, rfl, rfl, rfl⟩

/-- The Engine's entry: an idle block, a block held in reset, and a busy block; and the release. -/
theorem witness_EngineStepsOnlyWhenBusy_entries :
    let idle := { State.reset with agenda := [.engine] }
    idle.cfg.wf = true ∧ idle.agenda = [.engine] ∧ idle.latch = none ∧
      { idle with rst := true }.rst = true ∧
      step { idle with latch := some 0 } = .next (State.reset.ended 0 0 0) ∧
      { State.reset with rst := true, agenda := [.rst false] }.agenda = [.rst false] := by
  refine ⟨by decide, rfl, rfl, rfl, rfl, rfl⟩

theorem witness_BadConfigurationIsRefused :
    ∀ p ∈ [Params.mk 0 8 0, Params.mk (2 ^ 24) 8 0, Params.mk 1 7 0, Params.mk 1 (2 ^ 30) 0,
      Params.mk 1 8 1],
    p.maxTextLen < 1 ∨ 2 ^ 24 ≤ p.maxTextLen ∨ p.maxPixels < 8 ∨ 2 ^ 30 ≤ p.maxPixels ∨
      p.base % 4096 ≠ 0 := by decide

theorem witness_CmdWriteIssuesTheWord :
    State.reset.latch = none ∧ (State.reset.issue 3).latch.isSome = true := by decide +kernel

theorem witness_ErrorChangesOnlyErrorFields :
    exec .freq State.reset = .next (State.reset.ended 1 0 0) ∧ (State.reset.ended 1 0 0).errCode ≠ 0 :=
  ⟨rfl, by decide +kernel⟩

theorem witness_CommandsWriteOnlyTheirOperands :
    exec .nop demo = .next (demo.ended 0 0 0) := rfl

theorem witness_InterruptFollowsDone :
    exec .nop demo = .next (demo.ended 0 0 0) ∧
    hostTransaction (.write 0x004 0xF 0) State.reset = .next (State.reset.issue 0) ∧
    (2#32).getLsbD 1 = true ∧
    hostTransaction (.write 0x008 0xF 2) State.reset = .next (State.reset.writeStatus 2) :=
  ⟨rfl, rfl, rfl, rfl⟩

theorem witness_MisalignedAccessIsNotPerformed :
    ((0x002#12).toNat % 4 ≠ 0 ∨ (0xF#4) ≠ 0xF) ∧ ((0x00C#12).toNat % 4 ≠ 0 ∨ (0x1#4) ≠ 0xF) := by
  decide

/-- A dropped write, a dropped read and a misaligned access of the busy block. -/
theorem witness_BusyBlockDropsOtherAccesses :
    (State.reset.issue 3).latch.isSome = true ∧
    ¬ ((0xF#4) = 0xF ∧ ((0x004#12) = 0x00C ∨ (0x004#12) = 0x008)) ∧
    ¬ ((0xF#4) = 0xF ∧ ((0x048#12) = 0x000 ∨ (0x048#12) = 0x008 ∨ (0x048#12) = 0x00C)) ∧
    ¬ ((0x7#4) = 0xF ∧ ((0x008#12) = 0x00C ∨ (0x008#12) = 0x008)) := by decide +kernel

theorem witness_IdleRegisterReads :
    State.reset.latch = none ∧ State.reset.cfg.wf = true ∧ 0x04C ≤ (0xFFC#12).toNat ∧
      (0xFFC#12).toNat % 4 = 0 ∧ (0x04C#12).toNat % 4 = 0 := by decide +kernel

theorem witness_IdleRegisterWrites :
    State.reset.latch = none ∧ (0x000#12).toNat % 4 = 0 ∧
      (0x01C ≤ (0x03C#12).toNat ∧ (0x03C#12).toNat ≤ 0x03C ∧ (0x03C#12).toNat % 4 = 0) ∧
      (0x04C ≤ (0xFFC#12).toNat ∧ (0xFFC#12).toNat % 4 = 0) := by decide +kernel

/-- A window at one word of one memory. -/
def window (s : State) (sel : BitVec 3) (addr : Word) : State := { s with memSel := sel, memAddr := addr }

/-- A state just outside a window. -/
abbrev outside (s : State) : Prop := s.latch = none ∧ s.windowSize ≤ s.memAddr.toNat

/-- A state whose window holds the addressed word. -/
abbrev inside (s : State) : Prop := s.latch = none ∧ s.memAddr.toNat < s.windowSize

theorem witness_WindowOutOfRange_data :
    outside (window State.reset 0 16384) ∧ outside (window State.reset 1 524288) ∧
      outside (window State.reset 2 786432) := by decide +kernel

theorem witness_WindowOutOfRange_tables :
    outside (window State.reset 3 256) ∧ outside (window State.reset 4 4096) ∧
      outside (window State.reset 5 1022) ∧ outside (window State.reset 6 0) ∧
      outside (window State.reset 7 0xFFFFFFFF) := by decide +kernel

/-- The last word of a memory of 5 text bytes and 9 pixels, and the first bit word. -/
def small : State :=
  { State.reset with
    cfg := { maxTextLen := 5, maxPixels := 9, base := 0 }
    text := memOf [1, 2, 3, 4, 5], pix := memOf (List.replicate 27 7), bits := memOf (List.replicate 32 true) }

theorem witness_WindowReadsDataMemories_text :
    let s := window small 0 1
    let b : Fin 4 → Byte := fun j => if j = 0 then 5 else 0
    s.latch = none ∧ s.memAddr.toNat < s.windowSize ∧ s.memSel = 0 ∧
      (∀ j : Fin 4, 4 * s.memAddr.toNat + j < s.cfg.maxTextLen →
        Memory.read s.text (4 * s.memAddr.toNat + j) = some (b j)) ∧
      (∀ j : Fin 4, s.cfg.maxTextLen ≤ 4 * s.memAddr.toNat + j → b j = 0) := by decide +kernel

theorem witness_WindowReadsDataMemories_bits :
    let s := window small 1 0
    s.latch = none ∧ s.memAddr.toNat < s.windowSize ∧ s.memSel = 1 ∧
      (∀ j, j < 32 → Memory.read s.bits (32 * s.memAddr.toNat + j) = some ((0xFFFFFFFF#32).getLsbD j)) := by
  decide +kernel

theorem witness_WindowReadsDataMemories_pixels :
    let s := window small 2 6
    let b : Fin 4 → Byte := fun j => if j = 3 then 0 else 7
    s.latch = none ∧ s.memAddr.toNat < s.windowSize ∧ s.memSel = 2 ∧
      (∀ j : Fin 4, 4 * s.memAddr.toNat + j < 3 * s.cfg.maxPixels →
        Memory.read s.pix (4 * s.memAddr.toNat + j) = some (b j)) ∧
      (∀ j : Fin 4, 3 * s.cfg.maxPixels ≤ 4 * s.memAddr.toNat + j → b j = 0) := by decide +kernel

theorem witness_WindowReadsTables :
    (window demo 3 255).latch = none ∧ (window demo 3 255).memAddr.toNat = (255#8).toNat ∧
    (window demo 4 4095).memAddr.toNat = 16 * (255#8).toNat + 15 ∧
    (window demo 4 0x610).memAddr.toNat = 16 * (0x61#8).toNat + 0 ∧
    (window demo 5 1020).memAddr.toNat = 2 * 510 ∧
    (window demo 5 1021).memAddr.toNat = 2 * 510 + 1 := by decide +kernel

theorem witness_WindowReadOfUnwrittenFaults :
    (let s := { window small 0 1 with text := memOf [1, 2, 3, 4] };
      s.latch = none ∧ s.memSel = 0 ∧ 4 * s.memAddr.toNat + 0 < s.cfg.maxTextLen ∧
        Memory.written s.text (4 * s.memAddr.toNat) 0 ∧
        Memory.read s.text (4 * s.memAddr.toNat + 0) = none) ∧
    (let s := window demo 1 0;
      s.latch = none ∧ s.memSel = 1 ∧ s.memAddr.toNat < 2 ^ 19 ∧
        Memory.written s.bits (32 * s.memAddr.toNat) 4 ∧
        Memory.read s.bits (32 * s.memAddr.toNat + 4) = none) ∧
    (let s := { window small 2 6 with pix := memOf (List.replicate 26 7) };
      s.latch = none ∧ s.memSel = 2 ∧ 4 * s.memAddr.toNat + 2 < 3 * s.cfg.maxPixels ∧
        Memory.written s.pix (4 * s.memAddr.toNat) 2 ∧
        Memory.read s.pix (4 * s.memAddr.toNat + 2) = none) := by decide +kernel

theorem witness_WindowWritesDataMemories :
    inside (window State.reset 0 16383) ∧ inside (window State.reset 1 524287) ∧
      inside (window State.reset 2 786431) := by decide +kernel

theorem witness_WindowWritesTables :
    (window demo 3 255).latch = none ∧ (window demo 3 255).memAddr.toNat = (255#8).toNat ∧
    (window demo 4 4095).memAddr.toNat = 16 * (255#8).toNat + 15 ∧
    (window demo 4 0x610).memAddr.toNat = 16 * (0x61#8).toNat + 0 ∧
    (window demo 4 0x618).memAddr.toNat = 16 * (0x61#8).toNat + 8 ∧
    (window demo 5 1021).memAddr.toNat < 1022 := by decide +kernel

theorem demo_text : demo.textIs [0x61, 0x62] ∧ [0x61#8, 0x62#8].length ≤ demo.cfg.maxTextLen := by
  decide +kernel

theorem witness_FreqCountsEverySymbol :
    demo.textIs [0x61, 0x62] ∧ 1 ≤ [0x61#8, 0x62#8].length ∧
      [0x61#8, 0x62#8].length ≤ demo.cfg.maxTextLen := by decide +kernel

theorem witness_FreqRaisesItsErrors :
    (let s := { State.reset with textLen := 65537 };
      s.cfg.maxTextLen < s.textLen.toNat) ∧ State.reset.textLen = 0 := by decide +kernel

theorem witness_CommandsFaultOnUnwrittenOperands_text :
    let s := { demo with textLen := 3 }
    s.textLen.toNat ≤ s.cfg.maxTextLen ∧ 2 < s.textLen.toNat ∧ Memory.written s.text 0 2 ∧
      Memory.read s.text 2 = none ∧
      ∀ j, j < 2 → ∀ c, Memory.read s.text j = some c →
        s.codeValid = true ∧ (s.entry c).present = true := by
  refine ⟨by decide +kernel, by decide +kernel, by decide +kernel, by decide +kernel, ?_⟩
  intro j hj c hc
  obtain rfl | rfl : j = 0 ∨ j = 1 := by omega
  · obtain rfl : 0x61 = c := Option.some.inj hc
    decide +kernel
  · obtain rfl : 0x62 = c := Option.some.inj hc
    decide +kernel

/-- An unwritten bit at the end of the bitstring, for DECODE and for EMBED. -/
theorem witness_CommandsFaultOnUnwrittenOperands_bits :
    let s := { demo with bitLen := 5 }
    4 < s.bitLen.toNat ∧ Memory.written s.bits 0 4 ∧ Memory.read s.bits 4 = none ∧ s.codeValid = true ∧
      s.pixCount.toNat ≤ s.cfg.maxPixels ∧ 24 + s.bitLen.toNat ≤ 3 * s.pixCount.toNat := by
  decide +kernel

/-- An unwritten pixel byte in the header, for EMBED and EXTRACT. -/
theorem witness_CommandsFaultOnUnwrittenOperands_header :
    let s := { demo with pix := memOf (List.replicate 23 0) }
    s.pixCount.toNat ≤ s.cfg.maxPixels ∧ Memory.written s.pix 0 23 ∧ Memory.read s.pix 23 = none ∧
      24 + s.bitLen.toNat ≤ 3 * s.pixCount.toNat ∧ 23 < 24 + s.bitLen.toNat ∧
      Memory.written s.bits 0 s.bitLen.toNat ∧ 24 ≤ 3 * s.pixCount.toNat := by decide +kernel

/-- An unwritten last byte of the payload, for EMBED and EXTRACT. -/
theorem witness_CommandsFaultOnUnwrittenOperands_payload :
    let s := { demo with pix := memOf (demoPixels.take 27) }
    s.pixCount.toNat ≤ s.cfg.maxPixels ∧ Memory.written s.pix 0 27 ∧ Memory.read s.pix 27 = none ∧
      24 + s.bitLen.toNat ≤ 3 * s.pixCount.toNat ∧ 27 < 24 + s.bitLen.toNat ∧
      Memory.written s.bits 0 s.bitLen.toNat ∧ (demoPixels.take 24).length = 24 ∧
      Memory.holds s.pix 0 (demoPixels.take 24) ∧
      4 = ((List.range 24).map fun k =>
        (((demoPixels.take 24).getD k 0).getLsbD 0).toNat * 2 ^ (23 - k)).sum ∧
      24 + 4 ≤ 3 * s.pixCount.toNat ∧ 24 ≤ 27 ∧ 27 < 24 + 4 := by decide +kernel

theorem witness_BuildRaisesEmptyInput : ∀ c, State.reset.freqOf c = 0 :=
  fun _ => Vector.getElem_replicate _

/-- A table of one symbol. -/
def lone : State := withFreqs State.reset [(0x61, 4), (0x62, 0)]

theorem lone_freqOf (c : Symbol) :
    lone.freqOf c = if c = 0x62 then 0 else if c = 0x61 then 4 else 0 :=
  freqOf_withFreqs State.reset rfl c 4 0

theorem lone_symbols : (allSymbols.filter fun c => lone.freqOf c != 0) = [0x61] := by
  simp only [lone_freqOf]; decide +kernel

theorem demo_distinct : demo.distinctCount = 2 := congrArg List.length demo_symbols
theorem lone_distinct : lone.distinctCount = 1 := congrArg List.length lone_symbols

theorem build_next {s : State} (h : s.presentInFreq ≠ []) : ∃ t, exec .build s = .next t := by
  rcases buildRule_eq s with ⟨h', _⟩ | ⟨_, h'⟩
  · exact absurd h' h
  · exact ⟨_, by show s.finish (buildRule s) = _; rw [h']; rfl⟩

theorem demo_build : ∃ t, exec .build demo = .next t :=
  build_next fun h => by rw [State.presentInFreq, demo_symbols] at h; cases h

theorem lone_build : ∃ t, exec .build lone = .next t :=
  build_next fun h => by rw [State.presentInFreq, lone_symbols] at h; cases h

theorem witness_BuildCompletes : demo.freqOf 0x61 ≠ 0 := by rw [demo_freqOf]; decide

theorem witness_BuildRootAndCount :
    (1 ≤ demo.distinctCount ∧ 2 ≤ demo.distinctCount ∧ ∃ t, exec .build demo = .next t) ∧
      (1 ≤ lone.distinctCount ∧ lone.distinctCount = 1 ∧ ∃ t, exec .build lone = .next t) := by
  rw [demo_distinct, lone_distinct]
  exact ⟨⟨by decide, by decide, demo_build⟩, by decide, rfl, lone_build⟩

theorem witness_BuildLeavesAndUnusedEntries :
    (1 ≤ demo.distinctCount ∧ ∃ t, exec .build demo = .next t ∧ t.nodeCount.toNat ≤ t.nodeCount.toNat) ∧
      (allSymbols.filter fun c => demo.freqOf c != 0)[1]? = some 0x62 := by
  rw [demo_distinct, demo_symbols]
  obtain ⟨t, ht⟩ := demo_build
  exact ⟨⟨by decide, t, ht, le_refl _⟩, rfl⟩

theorem witness_BuildSingleSymbol : ∀ d, lone.freqOf d ≠ 0 ↔ d = 0x61 := by
  simp only [lone_freqOf]; decide +kernel

theorem witness_BuildMergesTheTwoLeast :
    2 ≤ demo.distinctCount ∧ (∃ t, exec .build demo = .next t) ∧ demo.distinctCount ≤ 2 ∧
      2 < 2 * demo.distinctCount - 1 := by
  rw [demo_distinct]
  exact ⟨by decide, demo_build, by decide, by decide⟩

theorem witness_BuildCodesAreTreePaths :
    1 ≤ demo.distinctCount ∧ (∃ t, exec .build demo = .next t) ∧ demo.freqOf 0x60 = 0 ∧
      demo.freqOf 0x61 ≠ 0 := by
  rw [demo_distinct, demo_freqOf, demo_freqOf]
  exact ⟨by decide, demo_build, by decide, by decide⟩

theorem witness_BuildTableIsPrefixFree : 1 ≤ demo.distinctCount ∧ ∃ t, exec .build demo = .next t := by
  rw [demo_distinct]
  exact ⟨by decide, demo_build⟩

theorem witness_BuildTableIsComplete :
    (1 ≤ demo.distinctCount ∧ ∃ t, exec .build demo = .next t) ∧
      (1 ≤ lone.distinctCount ∧ ∃ t, exec .build lone = .next t) := by
  rw [demo_distinct, lone_distinct]
  exact ⟨⟨by decide, demo_build⟩, by decide, lone_build⟩

theorem reset_entry (c : Symbol) : State.reset.entry c = CodeEntry.zero :=
  Vector.getElem_replicate _

theorem witness_CommitAcceptsExactlyPrefixCodes :
    demo.romIsPrefixCode ∧ ¬ State.reset.romIsPrefixCode := by
  refine ⟨demo_prefix_code, ?_⟩
  rintro ⟨⟨c, hc⟩, -, -⟩
  rw [reset_entry] at hc; exact absurd hc (by decide)

/-- A table whose entry of a has a bit above its length, and one whose first code is a prefix of the
second. -/
def stray : State := withCodes State.reset [(0x61, ⟨1, 2⟩), (0x62, ⟨0, 0⟩)]
def clash : State := withCodes State.reset [(0x61, ⟨1, 0⟩), (0x62, ⟨2, 1⟩)]

theorem witness_CommitReportsTheFirstFailure_empty :
    ∀ c, (State.reset.entry c).present = false := fun c => by rw [reset_entry]; rfl

theorem witness_CommitReportsTheFirstFailure_stray :
    (stray.entry 0x61).present = true ∧ ¬ (stray.entry 0x61).wf ∧
      ∀ d, d.toNat < (0x61#8).toNat → (stray.entry d).present = true → (stray.entry d).wf := by
  refine ⟨by decide +kernel, by decide +kernel, fun d hd h => ?_⟩
  rcases present_withCodes d _ _ h with rfl | rfl
  · exact absurd hd (by decide)
  · exact absurd hd (by decide)

theorem clash_present : ∀ c, (clash.entry c).present = true → c = 0x61 ∨ c = 0x62 :=
  fun c h => present_withCodes c ⟨1, 0⟩ ⟨2, 1⟩ h

theorem witness_CommitReportsTheFirstFailure_clash :
    (∀ c, (clash.entry c).present = true → (clash.entry c).wf) ∧
    (clash.entry 0x61).present = true ∧ (clash.entry 0x62).present = true ∧ (0x61#8) ≠ 0x62 ∧
    (clash.entry 0x61).string <+: (clash.entry 0x62).string ∧
    ∀ x y, (clash.entry x).present = true → (clash.entry y).present = true → x ≠ y →
      (clash.entry x).string <+: (clash.entry y).string →
      (0x61#8).toNat < x.toNat ∨ (x = 0x61 ∧ (0x62#8).toNat ≤ y.toNat) := by
  refine ⟨fun c hc => ?_, by decide +kernel, by decide +kernel, by decide, by decide +kernel, ?_⟩
  · rcases clash_present c hc with rfl | rfl <;> decide +kernel
  intro x y hx hy hxy _
  rcases clash_present x hx with rfl | rfl <;> rcases clash_present y hy with rfl | rfl
  · exact absurd rfl hxy
  · exact .inr ⟨rfl, by decide⟩
  · exact .inl (by decide)
  · exact absurd rfl hxy

theorem demo_count : demo.presentCount = 2 := by
  have h : ∀ c, (demo.entry c).present = (if c = 0x62 then ⟨2, 2⟩ else if c = 0x61 then ⟨1, 0⟩ else
      CodeEntry.zero : CodeEntry).present := fun c => congrArg _ (entry_withCodes c ⟨1, 0⟩ ⟨2, 2⟩)
  simp only [State.presentCount, h]
  decide +kernel

theorem demo_commit : demo.CommitOk := ⟨fun _ => demo_prefix_code, fun _ => demo_count.symm⟩

theorem witness_CommitOfACommittedTableSucceeds : demo.CommitOk ∧ demo.codeValid = true :=
  ⟨demo_commit, rfl⟩

theorem witness_EncodeConcatenatesTheCodes :
    demo.textIs [0x61, 0x62] ∧ [0x61#8, 0x62#8].length ≤ demo.cfg.maxTextLen ∧ demo.codeValid = true ∧
      demo.allPresent [0x61, 0x62] ∧ (demo.codesOf [0x61, 0x62]).length ≤ maxBits := by decide +kernel

/-- The empty text needs no table (V-ENC-3). -/
theorem witness_EncodeConcatenatesTheCodes_empty :
    State.reset.textIs [] ∧ State.reset.codeValid = false ∧ State.reset.allPresent [] ∧
      (State.reset.codesOf []).length ≤ maxBits := by decide +kernel

theorem witness_EncodeRaisesParameterOrUnknownSymbol :
    (let s := { State.reset with textLen := 65537 };
      s.cfg.maxTextLen < s.textLen.toNat) ∧
    (let s := { demo with text := memOf [0x61, 0x7A] };
      s.textLen.toNat ≤ s.cfg.maxTextLen ∧ 1 < s.textLen.toNat ∧ Memory.read s.text 1 = some 0x7A ∧
        (s.entry 0x7A).present = false ∧ Memory.read s.text 0 = some 0x61 ∧ s.codeValid = true ∧
        (s.entry 0x61).present = true) ∧
    (let s := { demo with codeValid := false };
      s.textLen.toNat ≤ s.cfg.maxTextLen ∧ 0 < s.textLen.toNat ∧ Memory.read s.text 0 = some 0x61 ∧
        s.codeValid = false) := by decide +kernel

/-- 65794 bytes 0. -/
def longText : List Host.Cell := Memory.writeAll [] 0 (List.replicate 65794 0)

/-- V-ENC-7: 65794 symbols of a code of 255 bits. -/
def long : State :=
  { withCodes State.reset [(0, ⟨255, 0⟩)] with
    cfg := { Params.reference with maxTextLen := 2 ^ 24 - 1 }
    codeValid := true, textLen := 65794, text := longText }

theorem witness_EncodeRaisesCapacity :
    let txt : List Symbol := List.replicate 65794 0
    long.textIs txt ∧ txt.length ≤ long.cfg.maxTextLen ∧ long.codeValid = true ∧ long.allPresent txt ∧
      2 ^ 24 - 1 < (txt.map fun c => (long.entry c).len.toNat).sum := by
  have hlen : (long.entry 0).len.toNat = 255 := by decide +kernel
  have hpres : (long.entry 0).present = true := by decide +kernel
  refine ⟨⟨?_, ?_⟩, ?_, rfl, ?_, ?_⟩
  · exact List.length_replicate.trans (by decide +kernel : (65794 : Nat) = (65794#24).toNat)
  · intro i hi
    have h : long.text = longText := by simp only [long]
    rw [h, longText, Memory.read_writeAll, if_pos ⟨by omega, by omega⟩,
      show 0 + i - 0 = i by omega, List.getElem?_eq_getElem hi]
  · rw [List.length_replicate]; decide
  · intro c hc
    rw [List.eq_of_mem_replicate hc]; exact hpres
  · rw [List.map_replicate, List.sum_replicate, hlen]; decide

theorem witness_DecodeWritesTheParsedText :
    (demo.codeValid = true ∧ demo.romIsPrefixCode ∧
      demo.bitsAre (demo.codesOf [0x61, 0x62] ++ [true]) ∧ demo.allPresent [0x61, 0x62] ∧
      demo.noCodeIn [true] ∧ [0x61#8, 0x62#8].length ≤ demo.cfg.maxTextLen) ∧
    ({ demo with bitLen := 3 }.bitsAre (demo.codesOf [0x61, 0x62] ++ []) ∧ demo.noCodeIn []) :=
  ⟨⟨rfl, demo_prefix_code, by decide +kernel, by decide +kernel, demo_no_code, by decide +kernel⟩,
    by decide +kernel, noCodeIn_nil _⟩

/-- The same table and bits with a text memory of one byte. -/
def tight : State := { demo with cfg := { demo.cfg with maxTextLen := 1 } }

/-- A text memory that holds the text of the bitstring, and one that does not. -/
theorem witness_DecodeAnswersEveryBitstring :
    (demo.CommitOk ∧ demo.codeValid = true ∧ demo.bitsAre [false, true, false, true]) ∧
      (tight.CommitOk ∧ tight.codeValid = true ∧ tight.bitsAre [false, true, false, true]) :=
  ⟨⟨demo_commit, rfl, by decide +kernel⟩,
    ⟨fun _ => demo_prefix_code, fun _ => demo_count.symm⟩, rfl, by decide +kernel⟩

theorem witness_DecodeRaisesItsErrors :
    State.reset.codeValid = false ∧ tight.codeValid = true ∧ tight.romIsPrefixCode ∧
      tight.bitsAre (tight.codesOf [0x61, 0x62] ++ [true]) ∧ tight.allPresent [0x61, 0x62] ∧
      tight.noCodeIn [true] ∧ tight.cfg.maxTextLen < [0x61#8, 0x62#8].length :=
  ⟨rfl, rfl, demo_prefix_code, by decide +kernel, by decide +kernel, demo_no_code, by decide +kernel⟩

theorem witness_DecodeUndoesEncode :
    (demo.textIs [0x61, 0x62] ∧ [0x61#8, 0x62#8].length ≤ demo.cfg.maxTextLen ∧ demo.codeValid = true ∧
      demo.allPresent [0x61, 0x62] ∧ (demo.codesOf [0x61, 0x62]).length ≤ maxBits) ∧
    demo.romIsPrefixCode ∧
    after (exec .encode demo) (fun t => (t.trunc, t.bitLen, t.cfg)) = some (false, 3, demo.cfg) :=
  ⟨by decide +kernel, demo_prefix_code, by decide +kernel⟩

theorem witness_EmbedWritesHeaderAndPayload :
    demo.bitsAre [false, true, false, true] ∧
      demoPixels.length = 24 + [false, true, false, true].length ∧ Memory.holds demo.pix 0 demoPixels ∧
      demo.pixCount.toNat ≤ demo.cfg.maxPixels ∧
      24 + [false, true, false, true].length ≤ 3 * demo.pixCount.toNat := by decide +kernel

theorem witness_EmbedRaisesParameterOrCapacity :
    (let s := { demo with pixCount := 1048577 };
      s.cfg.maxPixels < s.pixCount.toNat) ∧
    (let s := { demo with pixCount := 9 };
      s.pixCount.toNat ≤ s.cfg.maxPixels ∧ 3 * s.pixCount.toNat < 24 + s.bitLen.toNat) := by
  decide +kernel

theorem witness_EmbedCapacityBoundary :
    (demo.pixCount.toNat ≤ demo.cfg.maxPixels ∧
      demo.pixCount.toNat = (24 + demo.bitLen.toNat + 2) / 3 ∧
      Memory.written demo.bits 0 demo.bitLen.toNat ∧
      Memory.written demo.pix 0 (24 + demo.bitLen.toNat)) ∧
    (let s := { demo with pixCount := 9 };
      s.pixCount.toNat ≤ s.cfg.maxPixels ∧ s.bitLen.toNat = 3 + 1 ∧
        s.pixCount.toNat = (24 + 3 + 2) / 3 ∧ 8 ≤ s.pixCount.toNat) := by decide +kernel

theorem witness_ExtractReadsHeaderAndPayload :
    Memory.holds demo.pix 0 demoPixels ∧ demoPixels.length = 24 + 4 ∧
      4 = ((List.range 24).map fun k =>
        ((demoPixels.getD k 0).getLsbD 0).toNat * 2 ^ (23 - k)).sum ∧
      demo.pixCount.toNat ≤ demo.cfg.maxPixels ∧ 24 + 4 ≤ 3 * demo.pixCount.toNat := by decide +kernel

theorem witness_ExtractRaisesItsErrors :
    (let s := { demo with pixCount := 1048577 };
      s.cfg.maxPixels < s.pixCount.toNat) ∧
    (let s := { demo with pixCount := 7 };
      s.pixCount.toNat ≤ s.cfg.maxPixels ∧ s.pixCount.toNat < 8) ∧
    (let s := { demo with pixCount := 8 };
      s.pixCount.toNat ≤ s.cfg.maxPixels ∧ 8 ≤ s.pixCount.toNat ∧ (demoPixels.take 24).length = 24 ∧
        Memory.holds s.pix 0 (demoPixels.take 24) ∧
        4 = ((List.range 24).map fun k =>
          (((demoPixels.take 24).getD k 0).getLsbD 0).toNat * 2 ^ (23 - k)).sum ∧
        3 * s.pixCount.toNat - 24 < 4) := by decide +kernel

theorem witness_ExtractUndoesEmbed :
    demo.bitsAre [false, true, false, true] ∧ Memory.written demo.pix 0 (24 + 4) ∧
      demo.pixCount.toNat ≤ demo.cfg.maxPixels ∧ 24 + 4 ≤ 3 * demo.pixCount.toNat := by decide +kernel

theorem witness_InvariantHoldsAtReset : Params.reference.wf = true := by decide

theorem demo_memories : demo.MemoriesOk :=
  ⟨by decide +kernel, by decide +kernel, by decide +kernel, by decide +kernel, by decide +kernel,
    by decide +kernel⟩

/-- `demo` with a COMMIT_TABLE in flight. -/
def committing : State := { demo with latch := some 7 }

theorem commit_next (s : State) : ∃ t, exec .commitTable s = .next t := by
  rcases commitRule_eq s with ⟨e, _, h⟩ | ⟨_, h⟩
  · exact ⟨s.raise e, by show s.finish (commitRule s) = _; rw [h]; rfl⟩
  · exact ⟨_, by show s.finish (commitRule s) = _; rw [h]; rfl⟩

theorem committing_step : ∃ t, step committing = .next t := by
  have h : step committing = completeWord 7 committing := by
    have hc : committing.cfg.wf = true := by decide +kernel
    have ha : committing.agenda = [] := by simp only [committing]; decide +kernel
    have hr : committing.rst = false := by simp only [committing]; decide +kernel
    have hl : committing.latch = some 7 := by simp only [committing]
    simp only [step, nextTurn, engineTurn, hc, ha, hr, hl, if_true, Bool.false_eq_true, if_false]
  rw [h]
  rcases completeWord_cases 7 committing with ⟨i, hd, h⟩ | ⟨r, _, h⟩
  · obtain rfl : i = .commitTable :=
      Except.ok.inj (hd.symm.trans (by decide : decode 7 = .ok .commitTable))
    rw [h]
    exact commit_next committing
  · exact ⟨_, h⟩

theorem witness_StepKeepsMemoriesCanonical : committing.MemoriesOk ∧ ∃ t, step committing = .next t :=
  ⟨⟨demo_memories.1, demo_memories.2, demo_memories.3, demo_memories.4, demo_memories.5,
    demo_memories.6⟩, committing_step⟩

theorem witness_StepKeepsCommandFields :
    committing.FlagsOk ∧ committing.CountersOk ∧ ∃ t, step committing = .next t :=
  ⟨⟨by decide +kernel, by decide +kernel, by decide +kernel, by decide +kernel, by decide +kernel,
    by decide +kernel⟩, ⟨by decide +kernel, by decide +kernel⟩, committing_step⟩

theorem witness_StepKeepsCommittedTable : committing.CommitOk ∧ ∃ t, step committing = .next t :=
  ⟨⟨fun _ => demo_prefix_code, fun _ => demo_count.symm⟩, committing_step⟩

theorem witness_StepKeepsReset :
    let s := { State.reset with rst := true }
    s.HeldInReset ∧ s.rst = true ∧ step s = .next s := ⟨fun _ => rfl, rfl, rfl⟩

/-- A write of `MEM_DATA` at the head of the agenda. -/
def writing (s : State) (sel : BitVec 3) (addr data : Word) : State :=
  { window s sel addr with agenda := [hostWr .memData data] }

/-- A command of each kind that WhoWritesTablesAndPixels speaks of: COMMIT_TABLE sets `CODE_VALID`, BUILD
writes the arena and the code ROM, FREQ the counters, EMBED the pixels. -/
theorem witness_WhoWritesTablesAndPixels_commands :
    after (step { twoCodes with latch := some 7 }) (fun t => t.codeValid) = some true ∧
    after (step { lone with latch := some 2 }) (fun t =>
      ((t.nodeAt 1).kind, (lone.nodeAt 1).kind, (t.entry 0x61).len, (lone.entry 0x61).len)) =
      some (1, 0, 1, 0) ∧
    after (step { demo with latch := some 1, textLen := 1 })
      (fun t => (t.freqOf 0x62, demo.freqOf 0x62)) = some (0, 1) ∧
    after (step { demo with latch := some 5, bitLen := 3 })
      (fun t => (Memory.read t.pix 21, Memory.read demo.pix 21)) = some (some 0x54, some 0x55) := by
  decide +kernel

/-- A window write of each memory, and a reset: the code ROM and `CODE_VALID`, the counters, the pixels. -/
theorem witness_WhoWritesTablesAndPixels_inputs :
    demo.codeValid = true ∧
    after (step (writing demo 4 0x610 9)) (fun t => (t.codeValid, (t.entry 0x61).len)) =
      some (false, 9) ∧
    after (step (writing demo 3 255 9)) (fun t => (t.freqOf 255, demo.freqOf 255)) = some (9, 0) ∧
    after (step (writing demo 2 5 9)) (fun t => (Memory.read t.pix 21, Memory.read demo.pix 21)) =
      some (some 0, some 0x55) ∧
    after (step { demo with agenda := [.rst true] })
      (fun t => (t.codeValid, (t.entry 0x61).len, t.freqOf 0x61, t.pix)) = some (false, 0, 0, []) := by
  decide +kernel

end Sys2Proof.Machine.Tests
end

section
/-! # Who writes the tables, the pixels and `CODE_VALID`

Every step has a cause: a command's completion, a window write, a reset, or an event that leaves the
tables alone. One lemma a cause says which parts of the store it may change; each clause of the statement
is then read off from the cause of the step. -/

namespace Sys2Proof

/-! ### Words of commands -/

/-- The opcode map assigns an opcode to one command only (30_encoding.md R122). -/
theorem opcodeOf_of_commandOf {o : BitVec 4} {i : Instr} (h : commandOf o = some i) :
    o = opcodeOf i := by
  unfold commandOf at h
  split at h <;> cases h <;> rfl

/-- The only word that decodes to a command is that command's word (30_encoding.md R123). -/
theorem eq_encode_of_decode {w : Word} {i : Instr} (h : decode w = .ok i) : w = encode i := by
  unfold decode at h
  split at h
  · cases h
  next hzero =>
    split at h
    next j hj =>
      cases h
      have hlow : w.extractLsb' 0 4 = opcodeOf i := opcodeOf_of_commandOf hj
      have hhigh : w.extractLsb' 4 28 = 0 := not_not.mp hzero
      rw [← BitVec.extractLsb'_append_extractLsb' (w := 28) (len := 4) (x := w), hlow, hhigh]
      rfl
    · cases h

end Sys2Proof

namespace Sys2Proof.Machine

/-! ### Registers and windows -/

/-- The register map has one offset a register (10_state.md R32). -/
theorem eq_offset_of_regAt {off : BitVec 12} {r : Reg} (h : regAt off = some r) :
    off = r.offset := by
  unfold regAt at h
  split at h <;> cases h <;> rfl

/-- A selection has one selector (10_state.md R49). -/
theorem eq_sel_of_windowOf {sel : BitVec 3} {win : Window} (h : windowOf sel = some win) :
    sel = win.sel := by
  unfold windowOf at h
  split at h <;> cases h <;> rfl

/-- The two readings of 20_memory.md R85's word counts agree on a selected memory. -/
theorem State.windowSize_eq_words {s : State} {win : Window} (h : s.memSel = win.sel) :
    s.windowSize = win.words s.cfg := by
  unfold State.windowSize
  rw [h]
  cases win <;> rfl

/-! ### The store: what the statement watches -/

/-- The configuration, `CODE_VALID`, the three tables and pixel memory. -/
structure Store where
  /-- the implementation parameters (00_scope.md R6) -/
  cfg : Params
  /-- `STATUS.CODE_VALID` (10_state.md R35) -/
  codeValid : Bool
  /-- the node arena (10_state.md R56) -/
  node : Vector Node 511
  /-- the frequency table (10_state.md R54) -/
  freq : Vector (BitVec 24) 256
  /-- the code ROM (10_state.md R55) -/
  rom : Vector CodeEntry 256
  /-- pixel memory (10_state.md R59) -/
  pix : List Host.Cell

/-- The store of a state. -/
def State.store (s : State) : Store :=
  { cfg := s.cfg, codeValid := s.codeValid, node := s.node, freq := s.freq, rom := s.rom, pix := s.pix }

@[simp] theorem State.complete_store (s : State) : s.complete.store = s.store := rfl
@[simp] theorem State.raise_store (s : State) (e : CmdError) : (s.raise e).store = s.store := rfl
@[simp] theorem State.flagHostErr_store (s : State) : s.flagHostErr.store = s.store := rfl
@[simp] theorem State.advanceMemAddr_store (s : State) : s.advanceMemAddr.store = s.store := rfl
@[simp] theorem State.deliver_store (s : State) (w : Word) : (s.deliver w).store = s.store := rfl
@[simp] theorem State.writeBitstring_store (s : State) (out : Bitstring) :
    (s.writeBitstring out).store = s.store := rfl

/-- DECODE's writes are outside the store (44_decoder.md R200). -/
@[simp] theorem State.writeDecoded_store (s : State) (scan : DecodeScan) :
    (s.writeDecoded scan).store = s.store := by
  unfold State.writeDecoded
  split <;> rfl

/-- No register write reaches the store (20_memory.md R83). -/
@[simp] theorem State.writeReg_store (s : State) (data : Word) (r : Reg) :
    (s.writeReg data r).store = s.store := by
  cases r <;> rfl

@[simp] theorem misaligned_store (x : HostTxn) (s : State) : (misaligned x s).store = s.store := by
  cases x <;> simp [misaligned]

@[simp] theorem droppedBusy_store (x : HostTxn) (s : State) : (droppedBusy x s).store = s.store := by
  cases x <;> rfl

/-! ### Causes of a change -/

/-- What a step can be, as far as the store is concerned. -/
inductive Cause where
  /-- the completion of a command (46_control.md R236) -/
  | command (i : Instr)
  /-- a performed window write in range (20_memory.md R86) -/
  | window (win : Window)
  /-- `rst = 1` at a clock edge (70_reset_and_hazards.md R280) -/
  | reset
  /-- any other event; it may change nothing of the store -/
  | other

/-- The step from `s` to `t` has this cause, in the terms of the statement. -/
def Cause.happens (s t : State) : Cause → Prop
  | .command i => s.completes (encode i) t
  | .window win => s.writesWindow win.sel
  | .reset => s.resets
  | .other => True

/-- The parts of the store in which `a` and `b` differ are parts that the cause `c` may change. -/
structure ChangesOnlyBy (c : Cause) (a b : Store) : Prop where
  cfg : b.cfg = a.cfg
  validRises : a.codeValid = false → b.codeValid = true →
    c = .command .build ∨ c = .command .commitTable
  validFalls : a.codeValid = true → b.codeValid = false → c = .window .codeRom ∨ c = .reset
  node : b.node ≠ a.node → c = .command .build ∨ c = .reset
  freq : b.freq ≠ a.freq → c = .command .freq ∨ c = .window .freqTab ∨ c = .reset
  rom : b.rom ≠ a.rom → c = .command .build ∨ c = .window .codeRom ∨ c = .reset
  pix : b.pix ≠ a.pix → c = .command .embed ∨ c = .window .pixel ∨ c = .reset

/-- An unchanged store needs no cause. -/
theorem ChangesOnlyBy.of_eq {c : Cause} {a b : Store} (h : b = a) : ChangesOnlyBy c a b := by
  subst h
  constructor <;> simp_all

/-! ### Commands -/

/-- The end of a command changes what its rule's writes change, and no command is in flight after it. -/
theorem State.finish_changesOnlyBy {c : Cause} {s t : State} {r : Except Halt State}
    (hr : ∀ s', r = .ok s' → ChangesOnlyBy c s.store s'.store) (h : s.finish r = .next t) :
    t.latch = none ∧ ChangesOnlyBy c s.store t.store := by
  rcases State.finish_next_iff.mp h with ⟨s', hok, rfl⟩ | ⟨e, -, rfl⟩
  · exact ⟨s'.complete_latch, s'.complete_store ▸ hr s' hok⟩
  · exact ⟨s.raise_latch e, .of_eq (s.raise_store e)⟩

/-- FREQ writes the frequency table only (40_frequency_table.md R140). -/
theorem freqRule_changesOnlyBy {s s' : State} (h : freqRule s = .ok s') :
    ChangesOnlyBy (.command .freq) s.store s'.store := by
  obtain ⟨-, -, text, -, rfl⟩ := freqRule_ok_iff.mp h
  constructor <;> simp +contextual [State.store]

/-- BUILD writes the arena and the code ROM and sets `CODE_VALID` (41_tree_builder.md R163). -/
theorem buildRule_changesOnlyBy {s s' : State} (h : buildRule s = .ok s') :
    ChangesOnlyBy (.command .build) s.store s'.store := by
  rcases buildRule_eq s with ⟨-, hr⟩ | ⟨-, hr⟩
  · rw [hr] at h; cases h
  · rw [hr] at h; cases h
    constructor <;> simp [State.store]

/-- EMBED writes pixel memory only (45_lsb_channel.md R221). -/
theorem embedRule_changesOnlyBy {s s' : State} (h : embedRule s = .ok s') :
    ChangesOnlyBy (.command .embed) s.store s'.store := by
  obtain ⟨-, -, payload, bytes, -, -, rfl⟩ := embedRule_ok_iff.mp h
  constructor <;> simp +contextual [State.store]

/-- COMMIT_TABLE sets `CODE_VALID` and no table (42_code_rom.md R174). -/
theorem commitRule_changesOnlyBy {s s' : State} (h : commitRule s = .ok s') :
    ChangesOnlyBy (.command .commitTable) s.store s'.store := by
  rcases commitRule_eq s with ⟨e, -, hr⟩ | ⟨-, hr⟩
  · rw [hr] at h; cases h
  · rw [hr] at h; cases h
    constructor <;> simp [State.store]

/-- ENCODE writes bit memory and `BIT_LEN`, outside the store (43_encoder.md R190). -/
theorem encodeRule_store {s s' : State} (h : encodeRule s = .ok s') : s'.store = s.store := by
  obtain ⟨-, out, -, -, rfl⟩ := encodeRule_ok_iff.mp h
  exact s.writeBitstring_store out

/-- DECODE writes text memory and its registers, outside the store (44_decoder.md R200). -/
theorem decodeRule_store {s s' : State} (h : decodeRule s = .ok s') : s'.store = s.store := by
  obtain ⟨-, input, -, -, rfl⟩ := decodeRule_ok_iff.mp h
  exact s.writeDecoded_store (s.decodeBits input)

/-- EXTRACT writes bit memory and `BIT_LEN`, outside the store (45_lsb_channel.md R225). -/
theorem extractRule_store {s s' : State} (h : extractRule s = .ok s') : s'.store = s.store := by
  obtain ⟨-, -, header, bytes, -, -, -, rfl⟩ := extractRule_ok_iff.mp h
  rfl

/-- A command changes the part of the store its rule writes (30_encoding.md R121). -/
theorem exec_changesOnlyBy {i : Instr} {s t : State} (h : exec i s = .next t) :
    t.latch = none ∧ ChangesOnlyBy (.command i) s.store t.store := by
  cases i with
  | nop => exact State.finish_changesOnlyBy (r := .ok s) (fun _ hr => .of_eq (by cases hr; rfl)) h
  | freq => exact State.finish_changesOnlyBy (fun _ => freqRule_changesOnlyBy) h
  | build => exact State.finish_changesOnlyBy (fun _ => buildRule_changesOnlyBy) h
  | encode => exact State.finish_changesOnlyBy (fun _ hr => .of_eq (encodeRule_store hr)) h
  | decode => exact State.finish_changesOnlyBy (fun _ hr => .of_eq (decodeRule_store hr)) h
  | embed => exact State.finish_changesOnlyBy (fun _ => embedRule_changesOnlyBy) h
  | extract => exact State.finish_changesOnlyBy (fun _ hr => .of_eq (extractRule_store hr)) h
  | commitTable => exact State.finish_changesOnlyBy (fun _ => commitRule_changesOnlyBy) h

/-- The Engine's turn leaves the store alone, or completes a legal command word and changes what that
command may change (46_control.md R236, R238). -/
theorem engineTurn_store_cases {s t : State} (h : engineTurn s = .next t) :
    t.store = s.store ∨
    ∃ i, s.rst = false ∧ s.latch = some (encode i) ∧ t.latch = none ∧
      ChangesOnlyBy (.command i) s.store t.store := by
  rcases engineTurn_cases s with ⟨-, he⟩ | ⟨-, -, he⟩ | ⟨w, hrst, hlatch, he⟩
  · rw [he] at h; cases h; exact .inl rfl
  · rw [he] at h; cases h; exact .inl rfl
  · rcases completeWord_cases w s with ⟨i, hw, hc⟩ | ⟨-, -, hc⟩
    · obtain ⟨hidle, hch⟩ := exec_changesOnlyBy (hc ▸ he ▸ h)
      exact .inr ⟨i, hrst, eq_encode_of_decode hw ▸ hlatch, hidle, hch⟩
    · rw [he, hc] at h; cases h; exact .inl (s.raise_store _)

/-! ### Host transactions -/

/-- A window write changes the selected memory, and a code-ROM write `CODE_VALID` too (20_memory.md R86,
42_code_rom.md R172). -/
theorem State.windowWrite_changesOnlyBy (s : State) (win : Window) (w : Nat) (data : Word) :
    ChangesOnlyBy (.window win) s.store (s.windowWrite win w data).store := by
  cases win with
  | text => exact .of_eq rfl
  | bits => exact .of_eq (by simp [State.store, State.windowWrite])
  | nodes => exact .of_eq s.flagHostErr_store
  | pixel => constructor <;> simp +contextual [State.store, State.windowWrite]
  | freqTab => constructor <;> simp +contextual [State.store, State.windowWrite]
  | codeRom => constructor <;> simp [State.store, State.windowWrite]

/-- A performed read leaves the store alone (20_memory.md R83, R84). -/
theorem performRead_store {off : BitVec 12} {s t : State} (h : performRead off s = .next t) :
    t.store = s.store := by
  unfold performRead at h
  split at h
  · rcases readMemData_cases s with ⟨-, hr⟩ | ⟨-, w, -, -, hr⟩ | ⟨-, f, -, -, hr⟩
    · rw [hr] at h; cases h; simp
    · rw [hr] at h; cases h; simp
    · rw [hr] at h; cases h
  · cases h; exact s.deliver_store _
  · cases h; exact s.deliver_store _

/-- A performed write leaves the store alone, or is one of `MEM_DATA` in range and changes what the
selected window may change (20_memory.md R83, R86, R87). -/
theorem performWrite_store_cases (off : BitVec 12) (data : Word) (s : State) :
    (performWrite off data s).store = s.store ∨
    ∃ win, off = Reg.memData.offset ∧ s.windowInRange = some win ∧
      ChangesOnlyBy (.window win) s.store (performWrite off data s).store := by
  unfold performWrite
  split
  next hreg =>
    unfold writeMemData
    cases hwin : s.windowInRange with
    | none => exact .inl (by simp)
    | some win =>
      exact .inr ⟨win, eq_offset_of_regAt hreg, rfl, s.windowWrite_changesOnlyBy win _ data⟩
  · exact .inl (s.writeReg_store data _)
  · exact .inl rfl

/-- A host transaction leaves the store alone, or is a full-word `MEM_DATA` write in range to an idle
block (20_memory.md R82, 70_reset_and_hazards.md R290). -/
theorem hostTransaction_store_cases {x : HostTxn} {s t : State} (h : hostTransaction x s = .next t) :
    t.store = s.store ∨
    ∃ win data, x = .write 0x048 0xF data ∧ s.latch = none ∧ s.windowInRange = some win ∧
      ChangesOnlyBy (.window win) s.store t.store := by
  rcases hostTransaction_cases x s with ⟨-, hx⟩ | ⟨-, -, -, hx⟩ | ⟨hword, hbusy, hx⟩
  · rw [hx] at h; cases h; exact .inl (misaligned_store x s)
  · rw [hx] at h; cases h; exact .inl (droppedBusy_store x s)
  · rw [hx] at h
    cases x with
    | read off be => exact .inl (performRead_store h)
    | write off be data =>
      cases h
      refine (performWrite_store_cases off data s).imp_right ?_
      rintro ⟨win, rfl, hwin, hch⟩
      have hbe : be = 0xF := by simpa [HostTxn.alignedWord, Reg.offset] using hword
      have hidle : s.latch = none := by simpa [HostTxn.allowedBusy, Reg.offset] using hbusy
      exact ⟨win, data, by rw [hbe]; rfl, hidle, hwin, hch⟩

/-- The Host's turn leaves the store alone, or is a window write that reaches it. -/
theorem hostTurn_store_cases {x : HostTxn} {s t : State} (h : hostTurn x s = .next t) :
    t.store = s.store ∨
    ∃ win data, x = .write 0x048 0xF data ∧ s.rst = false ∧ s.latch = none ∧
      s.windowInRange = some win ∧ ChangesOnlyBy (.window win) s.store t.store := by
  unfold hostTurn at h
  split at h
  · cases h; exact .inl rfl
  next hrst =>
    refine (hostTransaction_store_cases h).imp_right ?_
    rintro ⟨win, data, hx, hrest⟩
    exact ⟨win, data, hx, Bool.eq_false_iff.mpr hrst, hrest⟩

/-! ### The reset port -/

/-- A reset keeps the configuration, withdraws the commit and may change the rest
(70_reset_and_hazards.md R280). -/
theorem State.applyReset_changesOnlyBy (s : State) :
    ChangesOnlyBy .reset s.store s.applyReset.store := by
  constructor <;> simp [State.store]

/-! ### Every step has a cause -/

/-- An in-range window is the one `MEM_SEL` selects, with `MEM_ADDR` below its size
(20_memory.md R87). -/
theorem State.memSel_memAddr_of_windowInRange {s : State} {win : Window}
    (h : s.windowInRange = some win) :
    s.memSel = win.sel ∧ s.memAddr.toNat < s.windowSize := by
  obtain ⟨hsel, haddr⟩ := State.windowInRange_eq_some_iff.mp h
  have hsel := eq_sel_of_windowOf hsel
  exact ⟨hsel, State.windowSize_eq_words hsel ▸ haddr⟩

/-- Every step has a cause that happens and that accounts for every change of the store. -/
theorem step_has_cause {s t : State} (h : step s = .next t) :
    ∃ c : Cause, c.happens s t ∧ ChangesOnlyBy c s.store t.store := by
  obtain ⟨-, ⟨hag, he⟩ | ⟨x, rest, hag, hh⟩ | ⟨level, rest, hag, rfl⟩⟩ := step_next_cases h
  · rcases engineTurn_store_cases he with heq | ⟨i, hrst, hlatch, hidle, hch⟩
    · exact ⟨.other, trivial, .of_eq heq⟩
    · exact ⟨.command i, ⟨hrst, hlatch, hidle, hag⟩, hch⟩
  · rcases hostTurn_store_cases hh with heq | ⟨win, data, rfl, hrst, hlatch, hwin, hch⟩
    · exact ⟨.other, trivial, .of_eq heq⟩
    · obtain ⟨hsel, haddr⟩ := State.memSel_memAddr_of_windowInRange hwin
      exact ⟨.window win, ⟨hrst, hlatch, hsel, haddr, data, rest, hag⟩, hch⟩
  · cases level with
    | false => exact ⟨.other, trivial, .of_eq rfl⟩
    | true => exact ⟨.reset, ⟨rest, hag⟩, State.applyReset_changesOnlyBy _⟩

/-- Settles O60: the cause of the step accounts for each change, clause by clause. -/
theorem whoWritesTablesAndPixels : Obligations.WhoWritesTablesAndPixels := by
  intro s t h
  obtain ⟨c, hc, hch⟩ := step_has_cause h
  have cause {d : Cause} (hd : c = d) : d.happens s t := hd ▸ hc
  exact ⟨hch.cfg,
    fun h0 h1 => (hch.validRises h0 h1).imp cause cause,
    fun h1 h0 => (hch.validFalls h1 h0).imp cause cause,
    fun hne => (hch.node hne).imp cause cause,
    fun hne => (hch.freq hne).imp cause (.imp cause cause),
    fun hne => (hch.rom hne).imp cause (.imp cause cause),
    fun hne => (hch.pix hne).imp cause (.imp cause cause)⟩

end Sys2Proof.Machine
end

section
/-! # Every step keeps the data memories canonical and inside their sizes

`MemoriesOk` speaks of the configuration and the three data memories only. So the proof looks at these
four: most events leave them alone, and each event that writes a memory stores a bounded list in it. -/

namespace Sys2Proof.Machine

/-! ### The data memories of a state -/

/-- The data memories and the configuration that sizes them (10_state.md R57 to R59). -/
structure DataMemories where
  /-- the implementation parameters (00_scope.md R6) -/
  cfg : Params
  /-- text memory (10_state.md R57) -/
  text : List Host.Cell
  /-- bit memory (10_state.md R58) -/
  bits : List (Nat × Bool)
  /-- pixel memory (10_state.md R59) -/
  pix : List Host.Cell

/-- The data memories of a state. -/
def State.memories (s : State) : DataMemories :=
  { cfg := s.cfg, text := s.text, bits := s.bits, pix := s.pix }

@[simp] theorem State.complete_memories (s : State) : s.complete.memories = s.memories := rfl
@[simp] theorem State.raise_memories (s : State) (e : CmdError) :
    (s.raise e).memories = s.memories := rfl
@[simp] theorem State.flagHostErr_memories (s : State) : s.flagHostErr.memories = s.memories := rfl
@[simp] theorem State.advanceMemAddr_memories (s : State) :
    s.advanceMemAddr.memories = s.memories := rfl
@[simp] theorem State.writeTree_memories (s : State) (used : List Node) (root : Nat) :
    (s.writeTree used root).memories = s.memories := rfl

/-- DECODE writes text memory and no other (44_decoder.md R200). -/
@[simp] theorem State.writeDecoded_memories (s : State) (scan : DecodeScan) :
    (s.writeDecoded scan).memories =
      { s.memories with text := Memory.writeAll s.text 0 scan.out } := by
  unfold State.writeDecoded
  split <;> rfl

/-- No register write reaches a data memory (20_memory.md R83). -/
@[simp] theorem State.writeReg_memories (s : State) (data : Word) (r : Reg) :
    (s.writeReg data r).memories = s.memories := by
  cases r <;> rfl

/-! ### What keeps the data memories canonical and bounded -/

/-- An event that leaves the data memories alone. -/
theorem State.MemoriesOk.of_memories_eq {s t : State} (hs : s.MemoriesOk)
    (h : t.memories = s.memories) : t.MemoriesOk := by
  obtain ⟨hcfg, htext, hbits, hpix⟩ := DataMemories.mk.inj h
  constructor
  · exact htext ▸ hs.textWf
  · exact hbits ▸ hs.bitsWf
  · exact hpix ▸ hs.pixWf
  · exact hcfg ▸ htext ▸ hs.textWithin
  · exact hbits ▸ hs.bitsWithin
  · exact hcfg ▸ hpix ▸ hs.pixWithin

/-- An event that writes text memory only, inside `MAX_TEXT_LEN`. -/
theorem State.MemoriesOk.of_text {s t : State} {m : Memory Byte} (hs : s.MemoriesOk)
    (hwf : Memory.wf m) (hwithin : Memory.within m s.cfg.maxTextLen)
    (h : t.memories = { s.memories with text := m }) : t.MemoriesOk :=
  State.MemoriesOk.of_memories_eq (s := { s with text := m })
    ⟨hwf, hs.bitsWf, hs.pixWf, hwithin, hs.bitsWithin, hs.pixWithin⟩ h

/-- An event that writes bit memory only, inside its `2^24` bits. -/
theorem State.MemoriesOk.of_bits {s t : State} {m : Memory Bool} (hs : s.MemoriesOk)
    (hwf : Memory.wf m) (hwithin : Memory.within m bitMemorySize)
    (h : t.memories = { s.memories with bits := m }) : t.MemoriesOk :=
  State.MemoriesOk.of_memories_eq (s := { s with bits := m })
    ⟨hs.textWf, hwf, hs.pixWf, hs.textWithin, hwithin, hs.pixWithin⟩ h

/-- An event that writes pixel memory only, inside `3 MAX_PIXELS`. -/
theorem State.MemoriesOk.of_pix {s t : State} {m : Memory Byte} (hs : s.MemoriesOk)
    (hwf : Memory.wf m) (hwithin : Memory.within m (3 * s.cfg.maxPixels))
    (h : t.memories = { s.memories with pix := m }) : t.MemoriesOk :=
  State.MemoriesOk.of_memories_eq (s := { s with pix := m })
    ⟨hs.textWf, hs.bitsWf, hwf, hs.textWithin, hs.bitsWithin, hwithin⟩ h

/-- Unwritten memories are canonical and bounded (10_state.md R63). -/
theorem State.memoriesOk_of_unwritten {s : State} (htext : s.text = []) (hbits : s.bits = [])
    (hpix : s.pix = []) : s.MemoriesOk := by
  constructor <;> simp [htext, hbits, hpix, Memory.wf]

/-! ### Commands -/

/-- ENCODE writes at most `MAX_BITS` bits from 0 (43_encoder.md R190, R194). -/
theorem encodeRule_memoriesOk {s s' : State} (hs : s.MemoriesOk) (h : encodeRule s = .ok s') :
    s'.MemoriesOk := by
  obtain ⟨-, out, -, hlen, rfl⟩ := encodeRule_ok_iff.mp h
  have hfits : 0 + out.length ≤ bitMemorySize := by
    simp only [maxBits] at hlen
    simp only [bitMemorySize]
    omega
  exact hs.of_bits (Memory.writeAll_wf 0 out hs.bitsWf)
    (Memory.writeAll_within out hfits hs.bitsWithin) rfl

/-- DECODE writes at most `MAX_TEXT_LEN` symbols from 0 (44_decoder.md R207). -/
theorem decodeRule_memoriesOk {s s' : State} (hs : s.MemoriesOk) (h : decodeRule s = .ok s') :
    s'.MemoriesOk := by
  obtain ⟨-, input, -, hlen, rfl⟩ := decodeRule_ok_iff.mp h
  exact hs.of_text (Memory.writeAll_wf 0 _ hs.textWf)
    (Memory.writeAll_within _ (by omega) hs.textWithin) (s.writeDecoded_memories _)

/-- EMBED writes as many bytes from 0 as it read, and the buffer has as many slots
(45_lsb_channel.md R220, R221). -/
theorem embedRule_memoriesOk {s s' : State} (hs : s.MemoriesOk) (h : embedRule s = .ok s') :
    s'.MemoriesOk := by
  obtain ⟨hcount, hslots, payload, bytes, -, hbytes, rfl⟩ := embedRule_ok_iff.mp h
  obtain ⟨hlen, -⟩ := State.pixelOperand_ok_iff.mp hbytes
  have hfits : 0 + (List.zipWith setLsb bytes (embedStream s.bitLen payload)).length ≤
      3 * s.cfg.maxPixels := by
    rw [State.slots] at hslots
    rw [List.length_zipWith]
    omega
  exact hs.of_pix (Memory.writeAll_wf 0 _ hs.pixWf) (Memory.writeAll_within _ hfits hs.pixWithin) rfl

/-- EXTRACT writes as many bits from 0 as its 24-bit header says (45_lsb_channel.md R225). -/
theorem extractRule_memoriesOk {s s' : State} (hs : s.MemoriesOk) (h : extractRule s = .ok s') :
    s'.MemoriesOk := by
  obtain ⟨-, -, header, bytes, hheader, -, hbytes, rfl⟩ := extractRule_ok_iff.mp h
  obtain ⟨hheaderLen, -⟩ := State.pixelOperand_ok_iff.mp hheader
  obtain ⟨hlen, -⟩ := State.pixelOperand_ok_iff.mp hbytes
  have hfits : 0 + (bytes.map lsb).length ≤ bitMemorySize := by
    have hlt := bitsVal_lt (header.map lsb)
    rw [List.length_map, hheaderLen, hdrBits] at hlt
    rw [List.length_map, hlen, bitMemorySize]
    omega
  exact hs.of_bits (Memory.writeAll_wf 0 _ hs.bitsWf)
    (Memory.writeAll_within _ hfits hs.bitsWithin) rfl

/-- FREQ writes the frequency table only (40_frequency_table.md R140). -/
theorem freqRule_memories {s s' : State} (h : freqRule s = .ok s') : s'.memories = s.memories := by
  obtain ⟨-, -, text, -, rfl⟩ := freqRule_ok_iff.mp h
  rfl

/-- BUILD writes the tree, no data memory (41_tree_builder.md R163). -/
theorem buildRule_memories {s s' : State} (h : buildRule s = .ok s') : s'.memories = s.memories := by
  rcases buildRule_eq s with ⟨-, hr⟩ | ⟨-, hr⟩
  · rw [hr] at h; cases h
  · rw [hr] at h; cases h
    exact s.writeTree_memories _ _

/-- COMMIT_TABLE writes `CODE_VALID` and `SYM_COUNT` only (42_code_rom.md R174). -/
theorem commitRule_memories {s s' : State} (h : commitRule s = .ok s') :
    s'.memories = s.memories := by
  rcases commitRule_eq s with ⟨e, -, hr⟩ | ⟨-, hr⟩
  · rw [hr] at h; cases h
  · rw [hr] at h; cases h; rfl

/-- The end of a command keeps what the writes of its rule keep. -/
theorem State.finish_memoriesOk {s t : State} {r : Except Halt State} (hs : s.MemoriesOk)
    (hr : ∀ s', r = .ok s' → s'.MemoriesOk) (h : s.finish r = .next t) : t.MemoriesOk := by
  rcases State.finish_next_iff.mp h with ⟨s', hok, rfl⟩ | ⟨e, -, rfl⟩
  · exact (hr s' hok).of_memories_eq s'.complete_memories
  · exact hs.of_memories_eq (s.raise_memories e)

/-- Every command keeps the data memories canonical and bounded (30_encoding.md R121). -/
theorem exec_memoriesOk {i : Instr} {s t : State} (hs : s.MemoriesOk) (h : exec i s = .next t) :
    t.MemoriesOk := by
  cases i with
  | nop => exact State.finish_memoriesOk (r := .ok s) hs (fun _ hr => Except.ok.inj hr ▸ hs) h
  | freq => exact State.finish_memoriesOk hs (fun _ hr => hs.of_memories_eq (freqRule_memories hr)) h
  | build => exact State.finish_memoriesOk hs (fun _ hr => hs.of_memories_eq (buildRule_memories hr)) h
  | encode => exact State.finish_memoriesOk hs (fun _ => encodeRule_memoriesOk hs) h
  | decode => exact State.finish_memoriesOk hs (fun _ => decodeRule_memoriesOk hs) h
  | embed => exact State.finish_memoriesOk hs (fun _ => embedRule_memoriesOk hs) h
  | extract => exact State.finish_memoriesOk hs (fun _ => extractRule_memoriesOk hs) h
  | commitTable =>
    exact State.finish_memoriesOk hs (fun _ hr => hs.of_memories_eq (commitRule_memories hr)) h

/-- The completion of a word, legal or not (46_control.md R236, R238). -/
theorem completeWord_memoriesOk {w : Word} {s t : State} (hs : s.MemoriesOk)
    (h : completeWord w s = .next t) : t.MemoriesOk := by
  rcases completeWord_cases w s with ⟨i, -, hc⟩ | ⟨r, -, hc⟩
  · exact exec_memoriesOk hs (hc ▸ h)
  · rw [hc] at h; cases h
    exact hs.of_memories_eq (s.raise_memories _)

/-! ### Host transactions -/

/-- A performed read changes the read data, `HOST_ERR` and `MEM_ADDR` at most (20_memory.md R83, R84,
R87). -/
theorem performRead_frame {off : BitVec 12} {s t : State} (h : performRead off s = .next t) :
    ∃ v e a, t = { s with rdata := v, hostErr := e, memAddr := a } := by
  unfold performRead at h
  split at h
  · rcases readMemData_cases s with ⟨-, hr⟩ | ⟨-, w, -, -, hr⟩ | ⟨-, f, -, -, hr⟩
    · rw [hr] at h; cases h; exact ⟨_, _, _, rfl⟩
    · rw [hr] at h; cases h; exact ⟨_, _, _, rfl⟩
    · rw [hr] at h; cases h
  · cases h; exact ⟨_, _, _, rfl⟩
  · cases h; exact ⟨_, _, _, rfl⟩

/-- A transaction that is not performed changes what the Host sees at most (20_memory.md R82). -/
theorem misaligned_frame (x : HostTxn) (s : State) :
    ∃ v, misaligned x s = { s with rdata := v, hostErr := true } := by
  cases x with
  | read off be => exact ⟨0, rfl⟩
  | write off be data => exact ⟨s.rdata, rfl⟩

/-- A dropped transaction changes what the Host sees at most (70_reset_and_hazards.md R290). -/
theorem droppedBusy_frame (x : HostTxn) (s : State) :
    ∃ v n, droppedBusy x s = { s with rdata := v, hostErr := true, freeReads := n } := by
  cases x with
  | read off be => exact ⟨_, _, rfl⟩
  | write off be data => exact ⟨s.rdata, s.freeReads, rfl⟩

/-- A host transaction is a performed write, or it changes the read data, `HOST_ERR`, `MEM_ADDR` and the
count of free values at most. -/
theorem hostTransaction_frame {x : HostTxn} {s t : State} (h : hostTransaction x s = .next t) :
    (∃ v e a n, t = { s with rdata := v, hostErr := e, memAddr := a, freeReads := n }) ∨
    ∃ off be data, x = .write off be data ∧ t = performWrite off data s := by
  rcases hostTransaction_cases x s with ⟨-, hx⟩ | ⟨-, -, -, hx⟩ | ⟨-, -, hx⟩
  · rw [hx] at h; cases h
    obtain ⟨v, hv⟩ := misaligned_frame x s
    exact .inl ⟨v, true, s.memAddr, s.freeReads, hv⟩
  · rw [hx] at h; cases h
    obtain ⟨v, n, hv⟩ := droppedBusy_frame x s
    exact .inl ⟨v, true, s.memAddr, n, hv⟩
  · rw [hx] at h
    cases x with
    | read off be =>
      obtain ⟨v, e, a, rfl⟩ := performRead_frame h
      exact .inl ⟨v, e, a, s.freeReads, rfl⟩
    | write off be data => exact .inr ⟨off, be, data, rfl, (Host.Outcome.next.inj h).symm⟩

/-- A window write in range stores only what the memory has room for (20_memory.md R85, R86). -/
theorem State.windowWrite_memoriesOk {s : State} {win : Window} {w : Nat} (data : Word)
    (hs : s.MemoriesOk) (hw : w < win.words s.cfg) : (s.windowWrite win w data).MemoriesOk := by
  cases win with
  | text =>
    exact hs.of_text (Memory.writeSized_wf _ _ _ hs.textWf)
      (Memory.writeSized_within _ _ hs.textWithin) rfl
  | bits =>
    have hfits : 32 * w + (unpackBits data).length ≤ bitMemorySize := by
      simp only [Window.words] at hw
      simp only [unpackBits, List.length_map, List.length_range, bitMemorySize]
      omega
    exact hs.of_bits (Memory.writeAll_wf _ _ hs.bitsWf)
      (Memory.writeAll_within _ hfits hs.bitsWithin)
      (by simp only [State.windowWrite, State.memories])
  | pixel =>
    exact hs.of_pix (Memory.writeSized_wf _ _ _ hs.pixWf)
      (Memory.writeSized_within _ _ hs.pixWithin) rfl
  | freqTab => exact hs.of_memories_eq rfl
  | codeRom => exact hs.of_memories_eq rfl
  | nodes => exact hs.of_memories_eq s.flagHostErr_memories

/-- A performed write of `MEM_DATA`, in range or not (20_memory.md R86, R87). -/
theorem writeMemData_memoriesOk {s : State} (data : Word) (hs : s.MemoriesOk) :
    (writeMemData s data).MemoriesOk := by
  unfold writeMemData
  cases hwin : s.windowInRange with
  | none => exact hs.of_memories_eq (by simp)
  | some win =>
    obtain ⟨-, haddr⟩ := State.windowInRange_eq_some_iff.mp hwin
    exact (State.windowWrite_memoriesOk data hs haddr).of_memories_eq
      (State.advanceMemAddr_memories _)

/-- A performed write of any offset (20_memory.md R83). -/
theorem performWrite_memoriesOk {s : State} (off : BitVec 12) (data : Word) (hs : s.MemoriesOk) :
    (performWrite off data s).MemoriesOk := by
  unfold performWrite
  split
  · exact writeMemData_memoriesOk data hs
  · exact hs.of_memories_eq (s.writeReg_memories data _)
  · exact hs

/-- Only a performed write reaches a data memory (20_memory.md R82, R83). -/
theorem hostTransaction_memoriesOk {x : HostTxn} {s t : State} (hs : s.MemoriesOk)
    (h : hostTransaction x s = .next t) : t.MemoriesOk := by
  rcases hostTransaction_frame h with ⟨v, e, a, n, rfl⟩ | ⟨off, be, data, -, rfl⟩
  · exact hs.of_memories_eq rfl
  · exact performWrite_memoriesOk off data hs

/-! ### The reset port -/

/-- A reset leaves every data memory unwritten, and a release leaves them alone
(70_reset_and_hazards.md R280). -/
theorem rstTurn_memoriesOk {s : State} (level : Bool) (hs : s.MemoriesOk) :
    (rstTurn level s).MemoriesOk := by
  cases level with
  | false => exact hs.of_memories_eq rfl
  | true => exact State.memoriesOk_of_unwritten s.applyReset_text s.applyReset_bits s.applyReset_pix

/-! ### Every step -/

/-- What holds through every kind of turn holds through every step: taking a turn off the agenda, a
completion of the word in flight, a host transaction outside reset, and a level of `rst`. -/
theorem step_keeps {P : State → Prop}
    (agenda : ∀ s rest, P s → P { s with agenda := rest })
    (complete : ∀ w s t, s.rst = false → s.latch = some w → P s → completeWord w s = .next t → P t)
    (host : ∀ x s t, s.rst = false → P s → hostTransaction x s = .next t → P t)
    (rst : ∀ level s, P s → P (rstTurn level s))
    {s t : State} (hs : P s) (h : step s = .next t) : P t := by
  obtain ⟨-, ⟨-, he⟩ | ⟨x, rest, -, hh⟩ | ⟨level, rest, -, rfl⟩⟩ := step_next_cases h
  · have hs := agenda s s.agenda.tail hs
    rcases engineTurn_cases { s with agenda := s.agenda.tail } with
      ⟨-, hn⟩ | ⟨-, -, hn⟩ | ⟨w, hrst, hlatch, hn⟩
    · rw [hn] at he; cases he; exact hs
    · rw [hn] at he; cases he; exact hs
    · exact complete w _ t hrst hlatch hs (hn ▸ he)
  · have hs := agenda s rest hs
    unfold hostTurn at hh
    split at hh
    · cases hh; exact hs
    next hrst => exact host x _ t (Bool.eq_false_iff.mpr hrst) hs hh
  · exact rst level _ (agenda s rest hs)

/-- Settles O56: each kind of turn keeps the data memories canonical and bounded. -/
theorem stepKeepsMemoriesCanonical : Obligations.StepKeepsMemoriesCanonical := fun _ _ =>
  step_keeps (fun _ _ hs => hs.of_memories_eq rfl)
    (fun _ _ _ _ _ => completeWord_memoriesOk)
    (fun _ _ _ _ => hostTransaction_memoriesOk)
    (fun level _ => rstTurn_memoriesOk level)

end Sys2Proof.Machine
end

section
/-! # Register reads, window reads that stop, and the reset state -/

namespace Sys2Proof.Machine

/-! ### The words of `STATUS` and `CTRL` -/

/-- Bit `i` of `STATUS`: the five flags, then `ERR_CODE` from bit 8 on (10_state.md R35). -/
theorem State.statusWord_getLsbD (s : State) (i : Nat) :
    s.statusWord.getLsbD i =
      match i with
      | 0 => s.latch.isSome
      | 1 => s.done
      | 2 => s.trunc
      | 3 => s.codeValid
      | 4 => s.hostErr
      | k + 5 => decide (3 ≤ k) && s.errCode.getLsbD (k - 3) := by
  change BitVec.getLsbD (w := 20 + 4 + 3 + 1 + 1 + 1 + 1 + 1) (0#20 ++ s.errCode ++ 0#3 ++
    BitVec.ofBool s.hostErr ++ BitVec.ofBool s.codeValid ++ BitVec.ofBool s.trunc ++
    BitVec.ofBool s.done ++ BitVec.ofBool s.busy) i = _
  simp only [BitVec.getLsbD_append, BitVec.getLsbD_ofBool, BitVec.getLsbD_zero, State.busy_eq]
  match i with
  | 0 | 1 | 2 | 3 | 4 => simp
  | k + 5 =>
    rcases Nat.lt_or_ge k 3 with hk | hk
    · simp [hk]
    · rcases Nat.lt_or_ge (k - 3) 4 with hk4 | hk4
      · simp [hk, hk4, Nat.not_lt.mpr hk]
      · simp [hk4, BitVec.getLsbD_of_ge, Nat.not_lt.mpr hk4]

/-- Bit `i` of `CTRL`: `IRQ_EN` at bit 0 (10_state.md R36). -/
theorem State.ctrlWord_getLsbD (s : State) (i : Nat) :
    s.ctrlWord.getLsbD i = (decide (i = 0) && s.irqEn) := by
  change BitVec.getLsbD (w := 31 + 1) (0#31 ++ BitVec.ofBool s.irqEn) i = _
  simp only [BitVec.getLsbD_append, BitVec.getLsbD_ofBool, BitVec.getLsbD_zero]
  cases i <;> simp

/-- Settles O18: the flags bit by bit, the wider fields and the reserved ranges by their bits. -/
theorem statusAndControlLayout : Obligations.StatusAndControlLayout := by
  intro s
  refine ⟨s.statusWord_getLsbD 0, s.statusWord_getLsbD 1, s.statusWord_getLsbD 2,
    s.statusWord_getLsbD 3, s.statusWord_getLsbD 4, ?reserved7_5, ?errCode, ?reserved31_12, ?irqEn,
    ?reserved31_1⟩
  case reserved7_5 =>
    refine BitVec.eq_of_getLsbD_eq fun i hi => ?_
    have hlow : ¬ 3 ≤ i := by omega
    simp [BitVec.getLsbD_extractLsb', Nat.add_comm 5, State.statusWord_getLsbD, hlow]
  case errCode =>
    refine BitVec.eq_of_getLsbD_eq fun i hi => ?_
    simp [show 8 + i = i + 3 + 5 by omega, State.statusWord_getLsbD, hi]
  case reserved31_12 =>
    refine BitVec.eq_of_getLsbD_eq fun i hi => ?_
    simp [BitVec.getLsbD_extractLsb', show 12 + i = i + 7 + 5 by omega, State.statusWord_getLsbD]
  case irqEn => exact s.ctrlWord_getLsbD 0
  case reserved31_1 =>
    refine BitVec.eq_of_getLsbD_eq fun i hi => ?_
    simp [BitVec.getLsbD_extractLsb', State.ctrlWord_getLsbD]

/-! ### Register reads (20_memory.md R83) -/

/-- An idle block answers a full-word read of a register with storage by its word, and nothing else
changes. -/
theorem State.readsAs_register {s : State} (hidle : s.latch = none) {r : Reg} (hr : r ≠ .memData) :
    s.readsAs r.offset (s.regWord r) := by
  unfold State.readsAs
  rw [hostTransaction_idle (alignedWord_read_offset r) hidle]
  cases r with
  | memData => exact absurd rfl hr
  | _ => rfl

/-- No register lies above `MEM_DATA` (10_state.md R32). -/
theorem regAt_eq_none_of_reserved {off : BitVec 12} (h : 0x04C ≤ off.toNat) : regAt off = none := by
  rw [Option.eq_none_iff_forall_ne_some]
  intro r hr
  have hle : ∀ r : Reg, r.offset.toNat ≤ 0x048 := by intro r; cases r <;> decide
  rw [eq_offset_of_regAt hr] at h
  have := hle r
  omega

/-- A full-word read at a multiple of 4 is aligned (20_memory.md R82). -/
theorem alignedWord_read_of_mod_four {off : BitVec 12} (h : off.toNat % 4 = 0) :
    (HostTxn.read off 0xF).alignedWord = true := by
  have hlow : off.extractLsb' 0 2 = 0 := by
    apply BitVec.eq_of_toNat_eq
    simpa [BitVec.extractLsb'_toNat] using h
  simp [HostTxn.alignedWord, hlow]

/-- A reserved offset reads 0 (10_state.md R52). -/
theorem State.readsAs_reserved {s : State} (hidle : s.latch = none) {off : BitVec 12}
    (hoff : 0x04C ≤ off.toNat) (haligned : off.toNat % 4 = 0) : s.readsAs off 0 := by
  unfold State.readsAs
  rw [hostTransaction_idle (alignedWord_read_of_mod_four haligned) hidle]
  simp only [perform, performRead, regAt_eq_none_of_reserved hoff, State.deliver]

/-- The sizes of an admitted configuration fit their registers (00_scope.md R6). -/
theorem sizes_lt_of_wf {p : Params} (h : p.wf = true) :
    p.maxTextLen < 2 ^ 24 ∧ p.maxPixels < 2 ^ 30 := by
  simp only [Params.wf, Params.textOk, Params.pixelsOk, Bool.and_eq_true, decide_eq_true_eq] at h
  omega

/-- `CAP_TEXT` holds `MAX_TEXT_LEN` whole (10_state.md R47). -/
theorem State.regWord_capText {s : State} (h : s.cfg.wf = true) :
    s.regWord .capText = BitVec.ofNat 32 s.cfg.maxTextLen :=
  BitVec.setWidth_ofNat_of_le_of_lt (by decide) (sizes_lt_of_wf h).1

/-- `CAP_PIXELS` holds `MAX_PIXELS` whole (10_state.md R48). -/
theorem State.regWord_capPixels {s : State} (h : s.cfg.wf = true) :
    s.regWord .capPixels = BitVec.ofNat 32 s.cfg.maxPixels :=
  BitVec.setWidth_ofNat_of_le_of_lt (by decide) (sizes_lt_of_wf h).2

/-- Settles O19: each register by `readsAs_register`, the capacities by their range. -/
theorem idleRegisterReads : Obligations.IdleRegisterReads := by
  intro s hidle
  have reads (r : Reg) (hr : r ≠ .memData) : s.readsAs r.offset (s.regWord r) :=
    State.readsAs_register hidle hr
  exact ⟨reads .id nofun, reads .cmd nofun, reads .status nofun, reads .ctrl nofun,
    reads .textLen nofun, reads .bitLen nofun, reads .pixCount nofun, reads .symCount nofun,
    reads .nodeCount nofun, reads .root nofun, reads .errInfo0 nofun, reads .errInfo1 nofun,
    reads .dangleStart nofun, reads .dangleLen nofun,
    fun hcfg => ⟨State.regWord_capText hcfg ▸ reads .capText nofun,
      State.regWord_capPixels hcfg ▸ reads .capPixels nofun⟩,
    reads .memSel nofun, reads .memAddr nofun, fun _ => State.readsAs_reserved hidle⟩

/-! ### Window reads that stop (93_implementation_defined.md I1) -/

/-- A range read faults at its first unwritten address. -/
theorem Memory.readRange_error {α : Type} {m : Memory α} {missing : Nat → Fault} {a n j : Nat}
    (hj : j < n) (hwritten : Memory.written m a j) (hnone : Memory.read m (a + j) = none) :
    Memory.readRange m missing a n = .error (missing (a + j)) :=
  Memory.readRange_error_iff.mpr ⟨j, hj, hnone, hwritten, rfl⟩

/-- A sized read faults at its first unwritten address below the size. -/
theorem Memory.readSized_error {m : Memory Byte} {missing : Nat → Fault} {size a n j : Nat}
    (hj : j < n) (hsize : a + j < size) (hwritten : Memory.written m a j)
    (hnone : Memory.read m (a + j) = none) :
    Memory.readSized m missing size a n = .error (missing (a + j)) := by
  induction n generalizing a j with
  | zero => omega
  | succ n ih =>
    simp only [Memory.readSized, if_pos (show a < size by omega)]
    cases j with
    | zero => simp [show Memory.read m a = none from hnone]
    | succ j =>
      obtain ⟨v, hv⟩ := Option.isSome_iff_exists.mp (hwritten 0 (by omega))
      rw [Nat.add_zero] at hv
      have hnext : a + (j + 1) = a + 1 + j := by omega
      rw [hnext] at hsize hnone ⊢
      have hrest : Memory.written m (a + 1) j := fun i hi => by
        simpa [Nat.add_assoc, Nat.add_comm 1] using hwritten (i + 1) (by omega)
      simp [hv, ih (by omega) hsize hrest hnone]

/-- A `MEM_DATA` read of an idle block stops with the fault of the word it addresses. -/
theorem hostTransaction_read_memData_fault {s : State} {win : Window} {f : Fault}
    (hidle : s.latch = none) (hsel : s.memSel = win.sel) (hin : s.memAddr.toNat < win.words s.cfg)
    (hread : s.windowRead win s.memAddr.toNat = .error f) :
    hostTransaction (.read 0x048 0xF) s = .fault f := by
  have hwin : s.windowInRange = some win :=
    State.windowInRange_eq_some_iff.mpr ⟨hsel ▸ windowOf_sel win, hin⟩
  calc hostTransaction (.read 0x048 0xF) s
      = readMemData s := hostTransaction_idle (alignedWord_read_offset .memData) hidle
    _ = .fault f := by simp only [readMemData, hwin, hread]

/-- Settles O24: the addressed word is in range, and its read faults at position `j`. -/
theorem windowReadOfUnwrittenFaults : Obligations.WindowReadOfUnwrittenFaults := by
  intro s j hidle
  refine ⟨fun hsel hj hsize hwritten hnone => ?text, fun hsel hj hin hwritten hnone => ?bits,
    fun hsel hj hsize hwritten hnone => ?pixel⟩
  case text =>
    refine hostTransaction_read_memData_fault (win := .text) hidle hsel
      (by simp only [Window.words]; omega) ?_
    simp only [State.windowRead, Memory.readSized_error hj hsize hwritten hnone]
  case bits =>
    refine hostTransaction_read_memData_fault (win := .bits) hidle hsel hin ?_
    simp only [State.windowRead, Memory.readRange_error hj hwritten hnone]
  case pixel =>
    refine hostTransaction_read_memData_fault (win := .pixel) hidle hsel
      (by simp only [Window.words]; omega) ?_
    simp only [State.windowRead, Memory.readSized_error hj hsize hwritten hnone]

/-! ### The reset state (10_state.md R63) -/

/-- A table of equal entries holds that entry everywhere. -/
theorem getD_toList_replicate {α : Type} (n i : Nat) (x : α) :
    (Vector.replicate n x).toList.getD i x = x := by
  rcases Nat.lt_or_ge i n with hi | hi
  · simp [hi]
  · simp [hi]

@[simp] theorem State.resetWith_statusWord (cfg : Params) : (State.resetWith cfg).statusWord = 0 := by
  simp [State.statusWord, State.resetWith]

@[simp] theorem State.resetWith_ctrlWord (cfg : Params) : (State.resetWith cfg).ctrlWord = 0 := by
  simp [State.ctrlWord, State.resetWith]

@[simp] theorem State.resetWith_freqOf (cfg : Params) (c : Symbol) :
    (State.resetWith cfg).freqOf c = 0 :=
  Vector.getElem_replicate c.isLt

@[simp] theorem State.resetWith_entry (cfg : Params) (c : Symbol) :
    (State.resetWith cfg).entry c = CodeEntry.zero :=
  Vector.getElem_replicate c.isLt

/-- Every arena entry is zero, and so is what a handle beyond the arena reads. -/
@[simp] theorem State.resetWith_nodeAt (cfg : Params) (h : Nat) :
    (State.resetWith cfg).nodeAt h = Node.zero :=
  getD_toList_replicate 511 h Node.zero

/-- Settles O8: the registers by definition, the tables entry by entry. -/
theorem resetStateValues : Obligations.ResetStateValues := by
  intro cfg s
  refine ⟨rfl, rfl, State.resetWith_statusWord cfg, State.resetWith_ctrlWord cfg, rfl, rfl, rfl, rfl,
    rfl, rfl, rfl, rfl, rfl, rfl, rfl, rfl, rfl, rfl, rfl, rfl, State.resetWith_freqOf cfg, ?rom,
    State.resetWith_nodeAt cfg, fun _ => ⟨rfl, rfl, rfl⟩⟩
  case rom =>
    intro c
    rw [State.resetWith_entry]
    exact ⟨rfl, rfl⟩

/-- The reset state of an admitted configuration has the invariant. -/
theorem State.resetWith_inv {cfg : Params} (h : cfg.wf = true) : (State.resetWith cfg).Inv where
  config := h
  memories := State.memoriesOk_of_unwritten rfl rfl rfl
  commit := ⟨nofun, nofun⟩
  flags := ⟨nofun, Nat.zero_le 8, fun _ => ⟨rfl, rfl⟩, nofun, fun _ => ⟨rfl, rfl⟩, nofun⟩
  counters := ⟨Nat.zero_le 256, .inl ⟨rfl, rfl⟩⟩
  held := nofun

/-- Settles O55: by `resetWith_inv`, as the reference configuration is admitted. -/
theorem invariantHoldsAtReset : Obligations.InvariantHoldsAtReset :=
  ⟨State.resetWith_inv (by decide), fun _ => State.resetWith_inv⟩

end Sys2Proof.Machine
end


section
/-! # Host accesses: alignment, register writes, and the data window

A host transaction is refused for its alignment, or it reaches a register, or `MEM_DATA`. For `MEM_DATA`
one lemma says what an access in range answers in terms of `windowRead` and `windowWrite`, and one what an
access out of range answers; each clause below is then about one word of one memory. -/

namespace Sys2Proof.Machine

/-! ### Aligned full words (20_memory.md R82) -/

/-- An access is performed at multiples of 4 with all four byte enables. -/
theorem alignedWord_read_iff {off : BitVec 12} {be : BitVec 4} :
    (HostTxn.read off be).alignedWord = true ↔ off.toNat % 4 = 0 ∧ be = 0xF := by
  have hlow : off.extractLsb' 0 2 = 0 ↔ off.toNat % 4 = 0 := by
    simp [← BitVec.toNat_inj, BitVec.extractLsb'_toNat]
  simp [HostTxn.alignedWord, ← hlow]

/-- A write is aligned as the read of the same offset and byte enables is. -/
theorem alignedWord_write_iff {off : BitVec 12} {be : BitVec 4} {data : Word} :
    (HostTxn.write off be data).alignedWord = true ↔ off.toNat % 4 = 0 ∧ be = 0xF :=
  alignedWord_read_iff

/-- A transaction that is not an aligned full word is not performed, whether the block is busy or not. -/
theorem hostTransaction_misaligned {x : HostTxn} {s : State} (h : ¬ x.alignedWord = true) :
    hostTransaction x s = .next (misaligned x s) :=
  if_pos (Bool.eq_false_iff.mpr h)

/-- Settles O16: neither transaction is an aligned full word. -/
theorem misalignedAccessIsNotPerformed : Obligations.MisalignedAccessIsNotPerformed := by
  intro s off be data h
  have hnot : ¬ (off.toNat % 4 = 0 ∧ be = 0xF) := by tauto
  exact ⟨hostTransaction_misaligned (alignedWord_read_iff.not.mpr hnot),
    hostTransaction_misaligned (alignedWord_write_iff.not.mpr hnot)⟩

/-! ### Register writes (20_memory.md R83) -/

/-- An idle block takes a full-word write of a register other than `MEM_DATA` as `writeReg` says. -/
theorem State.writesAs_register {s : State} (hidle : s.latch = none) (data : Word) {r : Reg}
    (hr : r ≠ .memData) : s.writesAs r.offset data (s.writeReg data r) := by
  unfold State.writesAs
  rw [hostTransaction_idle (alignedWord_write_offset r data) hidle]
  cases r with
  | memData => exact absurd rfl hr
  | _ => rfl

/-- The read-only registers and the reserved offsets ignore a write (10_state.md R52). -/
theorem performWrite_of_readOnly {off : BitVec 12}
    (hoff : off = 0x000 ∨ (0x01C ≤ off.toNat ∧ off.toNat ≤ 0x03C) ∨ 0x04C ≤ off.toNat)
    (data : Word) (s : State) : performWrite off data s = s := by
  cases hreg : regAt off with
  | none => simp only [performWrite, hreg]
  | some r =>
    obtain rfl := eq_offset_of_regAt hreg
    cases r with
    | cmd | status | ctrl | textLen | bitLen | pixCount | memSel | memAddr | memData =>
      exact absurd hoff (by decide)
    | _ => rfl

/-- Settles O20: each read-write register by `writesAs_register`, the others by
`performWrite_of_readOnly`. -/
theorem idleRegisterWrites : Obligations.IdleRegisterWrites := by
  intro s data hidle
  have writes (r : Reg) (hr : r ≠ .memData) : s.writesAs r.offset data (s.writeReg data r) :=
    State.writesAs_register hidle data hr
  have low {w : Nat} (hw : w ≤ 32) : data.setWidth w = data.extractLsb' 0 w :=
    BitVec.setWidth_eq_extractLsb' hw
  refine ⟨writes .status nofun, writes .ctrl nofun, low (w := 24) (by decide) ▸ writes .textLen nofun,
    low (w := 24) (by decide) ▸ writes .bitLen nofun, low (w := 30) (by decide) ▸ writes .pixCount nofun,
    low (w := 3) (by decide) ▸ writes .memSel nofun, writes .memAddr nofun,
    fun off hoff haligned => ?readOnly⟩
  case readOnly =>
    calc hostTransaction (.write off 0xF data) s
        = .next (performWrite off data s) :=
          hostTransaction_idle (alignedWord_write_iff.mpr ⟨haligned, rfl⟩) hidle
      _ = .next s := by rw [performWrite_of_readOnly hoff]

/-! ### The data window (20_memory.md R84, R87) -/

/-- The selected memory is in range below its word count. -/
theorem State.windowInRange_of_lt {s : State} {win : Window} (hsel : s.memSel = win.sel)
    (hin : s.memAddr.toNat < win.words s.cfg) : s.windowInRange = some win :=
  State.windowInRange_eq_some_iff.mpr ⟨hsel ▸ windowOf_sel win, hin⟩

/-- An address below the size of the selection is below the word count of the selected memory. -/
theorem State.lt_words_of_sel {s : State} {win : Window} (hsel : s.memSel = win.sel)
    (hin : s.memAddr.toNat < s.windowSize) : s.memAddr.toNat < win.words s.cfg :=
  State.windowSize_eq_words hsel ▸ hin

/-- No memory is in range at or above the word count of the selection. -/
theorem State.windowInRange_of_ge {s : State} (h : s.windowSize ≤ s.memAddr.toNat) :
    s.windowInRange = none := by
  rw [Option.eq_none_iff_forall_ne_some]
  intro win hwin
  exact Nat.not_lt.mpr h (State.memSel_memAddr_of_windowInRange hwin).2

/-- A `MEM_DATA` read of an idle block is performed. -/
theorem hostTransaction_read_memData {s : State} (hidle : s.latch = none) :
    hostTransaction (.read 0x048 0xF) s = readMemData s :=
  hostTransaction_idle (alignedWord_read_offset .memData) hidle

/-- A `MEM_DATA` write of an idle block is performed. -/
theorem hostTransaction_write_memData {s : State} (hidle : s.latch = none) (data : Word) :
    hostTransaction (.write 0x048 0xF data) s = .next (writeMemData s data) :=
  hostTransaction_idle (alignedWord_write_offset .memData data) hidle

/-- A `MEM_DATA` read in range delivers the addressed word. -/
theorem hostTransaction_read_memData_ok {s : State} {win : Window} {v : Word}
    (hidle : s.latch = none) (hsel : s.memSel = win.sel) (hin : s.memAddr.toNat < win.words s.cfg)
    (hread : s.windowRead win s.memAddr.toNat = .ok v) :
    hostTransaction (.read 0x048 0xF) s = .next { s with rdata := v, memAddr := s.memAddr + 1 } := by
  rw [hostTransaction_read_memData hidle, readMemData, State.windowInRange_of_lt hsel hin]
  simp only [hread, State.deliver, State.advanceMemAddr]

/-- A `MEM_DATA` write in range is the window write of the addressed word. -/
theorem hostTransaction_write_memData_inRange {s : State} {win : Window} (data : Word)
    (hidle : s.latch = none) (hsel : s.memSel = win.sel)
    (hin : s.memAddr.toNat < win.words s.cfg) :
    hostTransaction (.write 0x048 0xF data) s =
      .next (s.windowWrite win s.memAddr.toNat data).advanceMemAddr := by
  simp only [hostTransaction_write_memData hidle, writeMemData, State.windowInRange_of_lt hsel hin]

/-- Settles O21: no memory is in range, so both accesses take their out-of-range branch. -/
theorem windowOutOfRange : Obligations.WindowOutOfRange := by
  intro s data hidle hout
  have hnone : s.windowInRange = none := State.windowInRange_of_ge hout
  constructor
  · rw [hostTransaction_read_memData hidle, readMemData, hnone]
    rfl
  · rw [hostTransaction_write_memData hidle, writeMemData, hnone]
    rfl

/-! ### Words of bytes and of bits (20_memory.md R85) -/

/-- The value of two words side by side. -/
theorem toNat_append_eq_add {m n : Nat} (x : BitVec m) (y : BitVec n) :
    (x ++ y).toNat = x.toNat * 2 ^ n + y.toNat := by
  rw [BitVec.toNat_append, ← Nat.shiftLeft_add_eq_or_of_lt y.isLt, Nat.shiftLeft_eq]

/-- The packed bytes of a word, byte 0 lowest. -/
theorem packBytes_four (b0 b1 b2 b3 : Byte) : packBytes [b0, b1, b2, b3] = b3 ++ b2 ++ b1 ++ b0 := by
  apply BitVec.eq_of_toNat_eq
  simp only [packBytes, List.foldr, BitVec.toNat_ofNat, toNat_append_eq_add]
  omega

/-- Bit `i` of packed bits is bit `i` of the list. -/
theorem testBit_foldr_bits (bs : List Bool) (i : Nat) :
    (bs.foldr (fun (b : Bool) acc => b.toNat + 2 * acc) 0).testBit i = bs.getD i false := by
  induction bs generalizing i with
  | nil => simp
  | cons b bs ih =>
    cases i with
    | zero => cases b <;> simp [Nat.testBit_zero]
    | succ i =>
      rw [List.foldr_cons, Nat.testBit_succ, List.getD_cons_succ, ← ih]
      congr 1
      have := Bool.toNat_lt b
      omega

@[simp] theorem unpackBits_length (w : Word) : (unpackBits w).length = 32 := by simp [unpackBits]

/-- Bit `i` of a word's list of bits. -/
theorem unpackBits_getElem? {w : Word} {i : Nat} (h : i < 32) :
    (unpackBits w)[i]? = some (w.getLsbD i) := by
  simp [unpackBits, h]

/-- Packing the bits of a word gives the word. -/
@[simp] theorem packBits_unpackBits (w : Word) : packBits (unpackBits w) = w := by
  refine BitVec.eq_of_getLsbD_eq fun i hi => ?_
  rw [packBits, BitVec.getLsbD_ofNat, testBit_foldr_bits, List.getD_eq_getElem?_getD,
    unpackBits_getElem? hi]
  simp only [hi, decide_true, Bool.true_and, Option.getD_some]

@[simp] theorem unpackBytes_length (w : Word) : (unpackBytes w).length = 4 := rfl

/-- Byte `i` of a word's list of bytes. -/
theorem unpackBytes_getElem? {w : Word} {i : Nat} (h : i < 4) :
    (unpackBytes w)[i]? = some (w.extractLsb' (8 * i) 8) := by
  interval_cases i <;> rfl

/-! ### Window reads of the data memories (20_memory.md R85) -/

/-- A sized read answers the memory's bytes below the size and 0 from the size on. -/
theorem Memory.readSized_ok {m : Memory Byte} {missing : Nat → Fault} {size a : Nat} {vs : List Byte}
    (h : ∀ i, (hi : i < vs.length) →
      (if a + i < size then Memory.read m (a + i) else some 0) = some vs[i]) :
    Memory.readSized m missing size a vs.length = .ok vs := by
  induction vs generalizing a with
  | nil => rfl
  | cons v vs ih =>
    have hfirst : (if a < size then Memory.read m a else some 0) = some v := h 0 (Nat.succ_pos _)
    have hrest : Memory.readSized m missing size (a + 1) vs.length = .ok vs := ih fun i hi => by
      simpa [Nat.add_assoc, Nat.add_comm 1] using h (i + 1) (Nat.succ_lt_succ hi)
    simp only [List.length_cons, Memory.readSized, hfirst, hrest]

/-- A sized read of the four bytes of a word, in the terms of the statement: `b j` is byte `a + j` of the
memory, or 0 at or beyond the size. -/
theorem Memory.readSized_word {m : Memory Byte} {missing : Nat → Fault} {size a : Nat}
    {b : Fin 4 → Byte} (hin : ∀ j : Fin 4, a + j < size → Memory.read m (a + j) = some (b j))
    (hout : ∀ j : Fin 4, size ≤ a + j → b j = 0) :
    Memory.readSized m missing size a 4 = .ok [b 0, b 1, b 2, b 3] := by
  have hbyte (j : Fin 4) :
      (if a + j < size then Memory.read m (a + j) else some 0) = some (b j) := by
    split
    next hlt => exact hin j hlt
    next hge => rw [hout j (Nat.not_lt.mp hge)]
  refine Memory.readSized_ok (vs := [b 0, b 1, b 2, b 3]) fun i hi => ?_
  match i, hi with
  | 0, _ => exact hbyte 0
  | 1, _ => exact hbyte 1
  | 2, _ => exact hbyte 2
  | 3, _ => exact hbyte 3

/-- A range read of the 32 bits of a word. -/
theorem Memory.readRange_word {m : Memory Bool} {missing : Nat → Fault} {a : Nat} {v : Word}
    (h : ∀ j, j < 32 → Memory.read m (a + j) = some (v.getLsbD j)) :
    Memory.readRange m missing a 32 = .ok (unpackBits v) := by
  refine Memory.readRange_ok_iff.mpr ⟨unpackBits_length v, fun i hi => ?_⟩
  have hi32 : i < 32 := unpackBits_length v ▸ hi
  rw [h i hi32, ← unpackBits_getElem? hi32, List.getElem?_eq_getElem]

/-- Settles O22: the operands read as the packed word's bytes or bits. -/
theorem windowReadsDataMemories : Obligations.WindowReadsDataMemories := by
  intro s b v hidle hin
  refine ⟨fun hsel hwritten hbeyond => ?text, fun hsel hwritten => ?bits,
    fun hsel hwritten hbeyond => ?pixel⟩
  case text =>
    refine hostTransaction_read_memData_ok (win := .text) hidle hsel (State.lt_words_of_sel hsel hin) ?_
    simp only [State.windowRead, Memory.readSized_word hwritten hbeyond, packBytes_four]
  case bits =>
    refine hostTransaction_read_memData_ok (win := .bits) hidle hsel (State.lt_words_of_sel hsel hin) ?_
    simp only [State.windowRead, Memory.readRange_word hwritten, packBits_unpackBits]
  case pixel =>
    refine hostTransaction_read_memData_ok (win := .pixel) hidle hsel (State.lt_words_of_sel hsel hin) ?_
    simp only [State.windowRead, Memory.readSized_word hwritten hbeyond, packBytes_four]

/-! ### Window reads of the tables (20_memory.md R85) -/

/-- Word `c` of the frequency table. -/
theorem State.windowRead_freqTab (s : State) (c : Symbol) :
    s.windowRead .freqTab c.toNat = .ok ((s.freqOf c).setWidth 32) := by
  simp only [State.windowRead, BitVec.ofNat_toNat, BitVec.setWidth_eq]

/-- Word `m` of entry `c` of the code ROM. -/
theorem State.windowRead_codeRom (s : State) (c : Symbol) {m : Nat} (hm : m < 16) :
    s.windowRead .codeRom (16 * c.toNat + m) = .ok ((s.entry c).word m) := by
  have hdiv : (16 * c.toNat + m) / 16 = c.toNat := by omega
  have hmod : (16 * c.toNat + m) % 16 = m := by omega
  simp only [State.windowRead, hdiv, hmod, BitVec.ofNat_toNat, BitVec.setWidth_eq]

/-- The even word of node `n`. -/
theorem State.windowRead_nodes_even (s : State) (n : Nat) :
    s.windowRead .nodes (2 * n) = .ok (s.nodeAt n).freq := by
  have hdiv : 2 * n / 2 = n := by omega
  have hmod : ¬ 2 * n % 2 = 1 := by omega
  simp only [State.windowRead, hdiv, hmod, Node.word, State.nodeAt, decide_false, Bool.false_eq_true,
    if_false]

/-- The odd word of node `n`. -/
theorem State.windowRead_nodes_odd (s : State) (n : Nat) :
    s.windowRead .nodes (2 * n + 1) = .ok ((s.nodeAt n).kind ++ 0#5 ++ (s.nodeAt n).sym ++
      (s.nodeAt n).right ++ (s.nodeAt n).left) := by
  have hdiv : (2 * n + 1) / 2 = n := by omega
  have hmod : (2 * n + 1) % 2 = 1 := by omega
  simp only [State.windowRead, hdiv, hmod, Node.word, State.nodeAt, decide_true, if_true]

/-- Settles O23: the word of each table, at an address inside it. -/
theorem windowReadsTables : Obligations.WindowReadsTables := by
  intro s hidle got
  refine ⟨fun hsel c haddr => ?freqTab, fun hsel c m hm haddr => ?codeRom,
    fun hsel n hn => ⟨fun haddr => ?even, fun haddr => ?odd⟩⟩
  case freqTab =>
    refine hostTransaction_read_memData_ok (win := .freqTab) hidle hsel (haddr ▸ c.isLt) ?_
    rw [haddr, State.windowRead_freqTab]
  case codeRom =>
    have hin : s.memAddr.toNat < 4096 := by have := c.isLt; omega
    refine hostTransaction_read_memData_ok (win := .codeRom) hidle hsel hin ?_
    rw [haddr, State.windowRead_codeRom s c hm, CodeEntry.word]
  case even =>
    have hin : s.memAddr.toNat < 1022 := by omega
    refine hostTransaction_read_memData_ok (win := .nodes) hidle hsel hin ?_
    rw [haddr, State.windowRead_nodes_even]
  case odd =>
    have hin : s.memAddr.toNat < 1022 := by omega
    refine hostTransaction_read_memData_ok (win := .nodes) hidle hsel hin ?_
    rw [haddr, State.windowRead_nodes_odd]

/-! ### Window writes of the data memories (20_memory.md R86) -/

/-- A byte of text or pixel memory after a word is written at `a`: the word's byte where the memory has
one, the old byte elsewhere. -/
theorem Memory.read_writeSized_unpackBytes (m : Memory Byte) (size a b : Nat) (data : Word) :
    Memory.read (Memory.writeSized m size a (unpackBytes data)) b =
      if a ≤ b ∧ b < a + 4 ∧ b < size then some (data.extractLsb' (8 * (b - a)) 8)
      else Memory.read m b := by
  rw [Memory.read_writeSized, unpackBytes_length]
  split
  next h => exact unpackBytes_getElem? (by omega)
  next => rfl

/-- A bit of bit memory after a word is written at `a`. -/
theorem Memory.read_writeAll_unpackBits (m : Memory Bool) (a b : Nat) (data : Word) :
    Memory.read (Memory.writeAll m a (unpackBits data)) b =
      if a ≤ b ∧ b < a + 32 then some (data.getLsbD (b - a)) else Memory.read m b := by
  rw [Memory.read_writeAll, unpackBits_length]
  split
  next h => exact unpackBits_getElem? (by omega)
  next => rfl

/-- Settles O25: the write is the window write of the word, read back address by address. -/
theorem windowWritesDataMemories : Obligations.WindowWritesDataMemories := by
  intro s data hidle hin
  refine ⟨fun hsel => ⟨_, ?text, fun a => Memory.read_writeSized_unpackBytes _ _ _ a data⟩,
    fun hsel => ⟨_, ?bits, fun a => Memory.read_writeAll_unpackBits _ _ a data⟩,
    fun hsel => ⟨_, ?pixel, fun a => Memory.read_writeSized_unpackBytes _ _ _ a data⟩⟩
  case text =>
    rw [hostTransaction_write_memData_inRange (win := .text) data hidle hsel
      (State.lt_words_of_sel hsel hin)]
    simp only [State.windowWrite, State.advanceMemAddr]
  case bits =>
    rw [hostTransaction_write_memData_inRange (win := .bits) data hidle hsel
      (State.lt_words_of_sel hsel hin)]
    simp only [State.windowWrite, State.advanceMemAddr]
  case pixel =>
    rw [hostTransaction_write_memData_inRange (win := .pixel) data hidle hsel
      (State.lt_words_of_sel hsel hin)]
    simp only [State.windowWrite, State.advanceMemAddr]

/-! ### Window writes of the tables (20_memory.md R86, 42_code_rom.md R172) -/

/-- The counters after a window write of counter `c`. -/
theorem State.windowWrite_freqTab_freqOf (s : State) (c d : Symbol) (data : Word) :
    (s.windowWrite .freqTab c.toNat data).freqOf d =
      if d = c then data.extractLsb' 0 24 else s.freqOf d := by
  have hlow : data.setWidth 24 = data.extractLsb' 0 24 := BitVec.setWidth_eq_extractLsb' (by decide)
  simp only [State.windowWrite, State.freqOf, Vector.getElem_set, BitVec.ofNat_toNat,
    BitVec.setWidth_eq, BitVec.toNat_inj, hlow, eq_comm (a := c)]

/-- The entries after a window write of word `m` of entry `c`. -/
theorem State.windowWrite_codeRom_entry (s : State) (c d : Symbol) {m : Nat} (hm : m < 16)
    (data : Word) :
    (s.windowWrite .codeRom (16 * c.toNat + m) data).entry d =
      if d = c then (s.entry c).setWord m data else s.entry d := by
  have hdiv : (16 * c.toNat + m) / 16 = c.toNat := by omega
  have hmod : (16 * c.toNat + m) % 16 = m := by omega
  simp only [State.windowWrite, State.entry, hdiv, hmod, Vector.getElem_set, BitVec.ofNat_toNat,
    BitVec.setWidth_eq, BitVec.toNat_inj, eq_comm (a := c)]

/-- Word 0 sets `LEN`, every other word leaves it. -/
theorem CodeEntry.setWord_len (e : CodeEntry) (m : Nat) (data : Word) :
    (e.setWord m data).len = if m = 0 then data.extractLsb' 0 8 else e.len := by
  unfold CodeEntry.setWord
  split
  · exact BitVec.setWidth_eq_extractLsb' (w := 8) (v := 32) (by decide)
  · split <;> rfl

/-- A value with a slice replaced: the new bits inside the slice, the old ones outside. -/
theorem replaceSlice_getLsbD (v : BitVec 256) {sh : Nat} (hsh : sh + 32 ≤ 256) (data : Word)
    (i : Nat) :
    (replaceSlice v sh data).getLsbD i =
      if sh ≤ i ∧ i < sh + 32 then data.getLsbD (i - sh) else v.getLsbD i := by
  have hmask (k : Nat) : (0xFFFFFFFF#256).getLsbD k = decide (k < 32) := by
    rw [BitVec.getLsbD_ofNat, show 0xFFFFFFFF = 2 ^ 32 - 1 from rfl, Nat.testBit_two_pow_sub_one]
    have : k < 32 → k < 256 := by omega
    simpa using this
  simp only [replaceSlice, BitVec.getLsbD_or, BitVec.getLsbD_and, BitVec.getLsbD_not,
    BitVec.getLsbD_shiftLeft, BitVec.getLsbD_setWidth, hmask]
  rcases Nat.lt_or_ge i sh with hbelow | hge
  · have hi : i < 256 := by omega
    simp [hi, hbelow, Nat.not_le.mpr hbelow]
  · rcases Nat.lt_or_ge i (sh + 32) with hinside | habove
    · have hi : i < 256 := by omega
      have hk : i - sh < 32 := by omega
      have hk256 : i - sh < 256 := by omega
      simp [hi, hge, hk, hk256, hinside, Nat.not_lt.mpr hge]
    · have hk : 32 ≤ i - sh := by omega
      rcases Nat.lt_or_ge i 256 with hi | hi
      · simp [hi, BitVec.getLsbD_of_ge data _ hk, Nat.not_lt.mpr hk, Nat.not_lt.mpr habove]
      · simp [BitVec.getLsbD_of_ge v _ hi, Nat.not_lt.mpr hi, Nat.not_lt.mpr habove]

/-- Words 1 to 8 replace their 32 bits of `CODEVAL`, every other word leaves it. -/
theorem CodeEntry.setWord_value_getLsbD (e : CodeEntry) (m : Nat) (data : Word) (i : Nat) :
    (e.setWord m data).value.getLsbD i =
      if 1 ≤ m ∧ m ≤ 8 ∧ 32 * (m - 1) ≤ i ∧ i < 32 * (m - 1) + 32 then
        data.getLsbD (i - 32 * (m - 1))
      else e.value.getLsbD i := by
  unfold CodeEntry.setWord
  split
  next hzero => rw [if_neg (by omega)]
  next hpos =>
    split
    next hle =>
      rw [replaceSlice_getLsbD _ (by omega)]
      exact if_congr (by omega) rfl rfl
    next hgt => rw [if_neg (by omega)]

/-- Settles O26: the addressed counter or entry by the lemmas above, the arena by definition. -/
theorem windowWritesTables : Obligations.WindowWritesTables := by
  intro s data hidle
  refine ⟨fun hsel c haddr => ?freqTab, fun hsel c m hm haddr => ?codeRom, fun hsel hin => ?nodes⟩
  case freqTab =>
    refine ⟨_, hostTransaction_write_memData_inRange (win := .freqTab) data hidle hsel
      (haddr ▸ c.isLt), rfl, fun d => ?_⟩
    rw [haddr]
    exact s.windowWrite_freqTab_freqOf c d data
  case codeRom =>
    have hin : s.memAddr.toNat < 4096 := by have := c.isLt; omega
    have hentry (d : Symbol) :
        (s.windowWrite .codeRom s.memAddr.toNat data).advanceMemAddr.entry d =
          if d = c then (s.entry c).setWord m data else s.entry d :=
      haddr ▸ s.windowWrite_codeRom_entry c d hm data
    refine ⟨_, hostTransaction_write_memData_inRange (win := .codeRom) data hidle hsel hin, rfl,
      fun d hd => ?others, ?len, fun i => ?value⟩
    case others => rw [hentry, if_neg hd]
    case len => rw [hentry, if_pos rfl, CodeEntry.setWord_len]
    case value => rw [hentry, if_pos rfl, CodeEntry.setWord_value_getLsbD]
  case nodes => exact hostTransaction_write_memData_inRange (win := .nodes) data hidle hsel hin

end Sys2Proof.Machine
end

section
/-! # Command words, and what each command may write

The word of a command is its opcode below 28 zero bits, so decoding is inverted field by field. What a
command may write is its row of 30_encoding.md R121: `State.withRow` takes the fields of that row from
another state, and each rule is shown to answer a state of this form. -/

namespace Sys2Proof

/-! ### Decoding by the two fields of a word -/

/-- Every command's word has the form of 30_encoding.md R120. -/
theorem wordForm (i : Instr) : Laws.WordForm.Statement i := by
  cases i with
  | nop => exact Laws.WordForm.nop
  | freq => exact Laws.WordForm.freq
  | build => exact Laws.WordForm.build
  | encode => exact Laws.WordForm.encode
  | decode => exact Laws.WordForm.decode
  | embed => exact Laws.WordForm.embed
  | extract => exact Laws.WordForm.extract
  | commitTable => exact Laws.WordForm.commitTable

/-- A word decodes to a command exactly when `ZERO` is clear and the map has its opcode
(30_encoding.md R123). -/
theorem decode_eq_ok_iff {w : Word} {i : Instr} :
    decode w = .ok i ↔ w.extractLsb' 4 28 = 0 ∧ commandOf (w.extractLsb' 0 4) = some i := by
  unfold decode
  by_cases hzero : w.extractLsb' 4 28 = 0
  · rw [if_neg (not_not.mpr hzero)]
    cases commandOf (w.extractLsb' 0 4) <;> simp [hzero]
  · rw [if_pos hzero]
    exact ⟨fun h => (by cases h), fun h => absurd h.1 hzero⟩

/-- The word of a command decodes to it (30_encoding.md R120, R122). -/
theorem decode_encode (i : Instr) : decode (encode i) = .ok i := by
  obtain ⟨hhigh, hlow, hop, -⟩ := wordForm i
  exact decode_eq_ok_iff.mpr ⟨hhigh, hlow ▸ hop⟩

/-- Settles O1: by `decode_encode` and `eq_encode_of_decode`. -/
theorem decodeAndEncodeAgree : Obligations.DecodeAndEncodeAgree :=
  ⟨fun i _ => decode_encode i, fun _ _ => eq_encode_of_decode⟩

/-- Settles O3: each word of the map is the word of its command. -/
theorem opcodeMapWords : Obligations.OpcodeMapWords :=
  ⟨decode_encode .nop, decode_encode .freq, decode_encode .build, decode_encode .encode,
    decode_encode .decode, decode_encode .embed, decode_encode .extract, decode_encode .commitTable⟩

/-! ### Legal and illegal words -/

/-- The opcode map ends at 7 (30_encoding.md R122). -/
theorem commandOf_isSome_iff : ∀ o : BitVec 4, (commandOf o).isSome = true ↔ o.toNat < 8 := by
  decide

/-- A word is legal exactly when `ZERO` is clear and the opcode is below 8 (30_encoding.md R123). -/
theorem exists_decode_ok_iff (w : Word) :
    (∃ i, decode w = .ok i) ↔ w.extractLsb' 4 28 = 0 ∧ (w.extractLsb' 0 4).toNat < 8 := by
  simp only [decode_eq_ok_iff, exists_and_left, ← Option.isSome_iff_exists, commandOf_isSome_iff]

/-- A word is illegal exactly when it is no command's (30_encoding.md R123). -/
theorem exists_decode_error_iff (w : Word) :
    (∃ r, decode w = .error r) ↔ ¬ ∃ i, decode w = .ok i := by
  cases decode w <;> simp

/-- A word with its high field clear is its opcode. -/
theorem fields_legal_iff_le_seven (w : Word) :
    (w.extractLsb' 4 28 = 0 ∧ (w.extractLsb' 0 4).toNat < 8) ↔ w.toNat ≤ 7 := by
  simp only [← BitVec.toNat_inj, BitVec.extractLsb'_toNat, BitVec.ofNat_eq_ofNat,
    BitVec.toNat_ofNat, Nat.shiftRight_eq_div_pow]
  have := w.isLt
  omega

/-- Settles O2: by the two fields, and the illegal words as the complement of the legal ones. -/
theorem legalWordsAreZeroToSeven : Obligations.LegalWordsAreZeroToSeven := by
  intro w
  constructor
  · rw [exists_decode_ok_iff, fields_legal_iff_le_seven]
  · rw [exists_decode_error_iff, exists_decode_ok_iff, not_and_or, not_lt]

end Sys2Proof

namespace Sys2Proof.Machine

/-! ### The row of a command -/

/-- `s` with the operands that the command `i` may write taken from `t` (the rows of
30_encoding.md R121, without the completion fields). -/
def State.withRow (s : State) (i : Instr) (t : State) : State :=
  match i with
  | .nop => s
  | .freq => { s with freq := t.freq }
  | .build =>
    { s with
      node := t.node, nodeCount := t.nodeCount, root := t.root, rom := t.rom
      symCount := t.symCount, codeValid := t.codeValid }
  | .encode => { s with bits := t.bits, bitLen := t.bitLen }
  | .decode =>
    { s with
      text := t.text, textLen := t.textLen, trunc := t.trunc
      dangleStart := t.dangleStart, dangleLen := t.dangleLen }
  | .embed => { s with pix := t.pix }
  | .extract => { s with bits := t.bits, bitLen := t.bitLen }
  | .commitTable => { s with symCount := t.symCount, codeValid := t.codeValid }

theorem freqRule_eq_withRow {s s' : State} (h : freqRule s = .ok s') : s' = s.withRow .freq s' := by
  obtain ⟨-, -, text, -, rfl⟩ := freqRule_ok_iff.mp h
  rfl

theorem buildRule_eq_withRow {s s' : State} (h : buildRule s = .ok s') :
    s' = s.withRow .build s' := by
  rcases buildRule_eq s with ⟨-, hr⟩ | ⟨-, hr⟩
  · rw [hr] at h; cases h
  · rw [hr] at h; cases h; rfl

theorem encodeRule_eq_withRow {s s' : State} (h : encodeRule s = .ok s') :
    s' = s.withRow .encode s' := by
  obtain ⟨-, out, -, -, rfl⟩ := encodeRule_ok_iff.mp h
  rfl

/-- DECODE writes its row with a fragment left and without one (44_decoder.md R205, R206). -/
theorem decodeRule_eq_withRow {s s' : State} (h : decodeRule s = .ok s') :
    s' = s.withRow .decode s' := by
  obtain ⟨-, input, -, -, rfl⟩ := decodeRule_ok_iff.mp h
  unfold State.writeDecoded
  split <;> rfl

theorem embedRule_eq_withRow {s s' : State} (h : embedRule s = .ok s') :
    s' = s.withRow .embed s' := by
  obtain ⟨-, -, payload, bytes, -, -, rfl⟩ := embedRule_ok_iff.mp h
  rfl

theorem extractRule_eq_withRow {s s' : State} (h : extractRule s = .ok s') :
    s' = s.withRow .extract s' := by
  obtain ⟨-, -, header, bytes, -, -, -, rfl⟩ := extractRule_ok_iff.mp h
  rfl

theorem commitRule_eq_withRow {s s' : State} (h : commitRule s = .ok s') :
    s' = s.withRow .commitTable s' := by
  rcases commitRule_eq s with ⟨e, -, hr⟩ | ⟨-, hr⟩
  · rw [hr] at h; cases h
  · rw [hr] at h; cases h; rfl

/-! ### The frame of a command -/

/-- The end of a command whose rule keeps to the row of `i`. -/
theorem State.finish_next_withRow {i : Instr} {s t : State} {r : Except Halt State}
    (hr : ∀ s', r = .ok s' → s' = s.withRow i s') (h : s.finish r = .next t) :
    (∃ s', t = (s.withRow i s').complete) ∨ ∃ e, t = s.raise e := by
  rcases State.finish_next_iff.mp h with ⟨s', hok, rfl⟩ | ⟨e, -, rfl⟩
  · exact .inl ⟨s', congrArg State.complete (hr s' hok)⟩
  · exact .inr ⟨e, rfl⟩

/-- A command that answers a next state completes with writes in its row, or it raises an error
(30_encoding.md R121, 60_exceptions.md R252). -/
theorem exec_next_withRow {i : Instr} {s t : State} (h : exec i s = .next t) :
    (∃ s', t = (s.withRow i s').complete) ∨ ∃ e, t = s.raise e := by
  cases i with
  | nop => exact State.finish_next_withRow (r := .ok s) (fun _ hr => (Except.ok.inj hr).symm) h
  | freq => exact State.finish_next_withRow (fun _ => freqRule_eq_withRow) h
  | build => exact State.finish_next_withRow (fun _ => buildRule_eq_withRow) h
  | encode => exact State.finish_next_withRow (fun _ => encodeRule_eq_withRow) h
  | decode => exact State.finish_next_withRow (fun _ => decodeRule_eq_withRow) h
  | embed => exact State.finish_next_withRow (fun _ => embedRule_eq_withRow) h
  | extract => exact State.finish_next_withRow (fun _ => extractRule_eq_withRow) h
  | commitTable => exact State.finish_next_withRow (fun _ => commitRule_eq_withRow) h

/-- Settles O14: a success writes inside its row, by the row of each command; an error writes the
error and completion fields only. -/
theorem commandsWriteOnlyTheirOperands : Obligations.CommandsWriteOnlyTheirOperands := by
  intro i s t h
  rcases exec_next_withRow h with ⟨s', rfl⟩ | ⟨e, rfl⟩
  · cases i <;> simp [State.withRow]
  · simp

end Sys2Proof.Machine
end

section
/-! # FREQ counts the text

The tally is a fold of `countSymbol`, which adds one to the counter of one symbol, so each counter ends at
its start plus the number of occurrences, modulo `2^24`. A text has at most `2^24 - 1` symbols, so no
counter wraps (40_frequency_table.md R145). -/

namespace Sys2Proof.Machine

/-! ### All symbols, once each -/

theorem mem_allSymbols (c : Symbol) : c ∈ allSymbols :=
  List.mem_map.mpr ⟨c.toNat, List.mem_range.mpr c.isLt, by simp⟩

theorem nodup_allSymbols : allSymbols.Nodup := by
  refine List.nodup_range.map_on fun m hm n hn h => ?_
  rw [List.mem_range] at hm hn
  simpa [Nat.mod_eq_of_lt hm, Nat.mod_eq_of_lt hn] using congrArg BitVec.toNat h

/-- The occurrences of all symbols make up the text (40_frequency_table.md R143). -/
theorem sum_count_allSymbols (text : List Symbol) :
    (allSymbols.map fun c => text.count c).sum = text.length := by
  have hall (c : Symbol) (_ : c ∈ (text : Multiset Symbol)) : c ∈ allSymbols.toFinset :=
    List.mem_toFinset.mpr (mem_allSymbols c)
  rw [← List.sum_toFinset _ nodup_allSymbols, ← Multiset.coe_card, ← Multiset.sum_count_eq_card hall]
  simp only [Multiset.coe_count]

/-! ### The tally (40_frequency_table.md R140, R144) -/

/-- One more occurrence of `d` raises the counter of `d` and no other. -/
theorem countSymbol_getElem (cnt : Vector (BitVec 24) 256) (c d : Symbol) :
    (countSymbol cnt d)[c.toNat]'c.isLt =
      cnt[c.toNat]'c.isLt + BitVec.ofNat 24 (if d = c then 1 else 0) := by
  by_cases h : d = c
  · subst h
    simp [countSymbol]
  · have hne : d.toNat ≠ c.toNat := fun h' => h (BitVec.eq_of_toNat_eq h')
    simp [countSymbol, Vector.getElem_set_ne, hne, h]

/-- Counting a text adds its occurrences to each counter, whatever the counters held. -/
theorem foldl_countSymbol_getElem (text : List Symbol) (cnt : Vector (BitVec 24) 256) (c : Symbol) :
    (text.foldl countSymbol cnt)[c.toNat]'c.isLt =
      cnt[c.toNat]'c.isLt + BitVec.ofNat 24 (text.count c) := by
  induction text generalizing cnt with
  | nil => simp
  | cons d text ih =>
    rw [List.foldl_cons, ih, countSymbol_getElem, List.count_cons, BitVec.add_assoc,
      ← BitVec.ofNat_add, Nat.add_comm]
    simp only [beq_iff_eq]

/-- The tally of a text that a length register can describe is exact: no counter wraps
(40_frequency_table.md R145). -/
theorem tally_getElem_toNat {text : List Symbol} (h : text.length < 2 ^ 24) (c : Symbol) :
    ((tally text)[c.toNat]'c.isLt).toNat = text.count c := by
  have hcount : text.count c < 2 ^ 24 := lt_of_le_of_lt List.count_le_length h
  rw [tally, foldl_countSymbol_getElem, Vector.getElem_replicate, zero_add,
    BitVec.toNat_ofNat, Nat.mod_eq_of_lt hcount]

/-! ### The command -/

/-- The end of FREQ is the end of its rule. -/
theorem exec_freq (s : State) : exec .freq s = s.finish (freqRule s) := rfl

/-- FREQ on a written text in bounds answers its tally, and its rule stops at nothing. -/
theorem freqRule_of_textIs {s : State} {text : List Symbol} (htext : s.textIs text)
    (hpos : 1 ≤ text.length) (hle : text.length ≤ s.cfg.maxTextLen) :
    freqRule s = .ok { s with freq := tally text } := by
  obtain ⟨hlen, hholds⟩ := htext
  refine freqRule_ok_iff.mpr ⟨hlen ▸ hle, fun h0 => ?_, text, ?_, rfl⟩
  · rw [h0] at hlen
    exact absurd hpos (by simp [hlen])
  · exact State.textOperand_ok_iff.mpr ⟨hlen, fun i hi => by simpa using hholds i hi⟩

/-- Settles O27: the table is the tally, exact because `TEXT_LEN` has 24 bits. -/
theorem freqCountsEverySymbol : Obligations.FreqCountsEverySymbol := by
  intro s text htext hpos hle
  have hlt : text.length < 2 ^ 24 := htext.1 ▸ s.textLen.isLt
  refine ⟨State.complete { s with freq := tally text }, ?next, rfl, tally_getElem_toNat hlt, ?sum⟩
  case next => rw [exec_freq, freqRule_of_textIs htext hpos hle, State.finish_ok]
  case sum =>
    calc (allSymbols.map fun c => ((tally text)[c.toNat]'c.isLt).toNat).sum
        = (allSymbols.map fun c => text.count c).sum := by simp only [tally_getElem_toNat hlt]
      _ = text.length := sum_count_allSymbols text

/-- FREQ ends with the error its rule raises, and the state is otherwise the one before it. -/
theorem exec_freq_of_raised {s : State} {e : CmdError} (h : freqRule s = .error (.raised e)) :
    exec .freq s = .next (s.ended e.code e.info0 e.info1) := by
  rw [exec_freq, h, State.finish_raised]
  rfl

/-- Settles O28: the two errors of `freqRule_raised_iff`, with their codes and details. -/
theorem freqRaisesItsErrors : Obligations.FreqRaisesItsErrors := by
  intro s
  constructor
  · intro hlong
    have hraise := freqRule_raised_iff.mpr (.inl ⟨hlong, rfl⟩)
    rw [exec_freq_of_raised hraise, CmdError.info0, BitVec.ofNat_toNat]
    rfl
  · intro hempty
    exact exec_freq_of_raised (freqRule_raised_iff.mpr (.inr ⟨hempty, rfl⟩))

end Sys2Proof.Machine
end

section
/-! # Binary code trees in the node arena

BUILD works on handles into a flat arena. These lemmas read a part of the arena as the binary tree it
stands for, so that what `assignCodes` answers is an induction over that tree: the codes are the
root-to-leaf paths, none of them starts another, and their Kraft sum is 1 (41_tree_builder.md R159,
R164). -/

namespace Sys2Proof.Machine

/-- The tree that BUILD keeps in the arena, without handles and frequencies. -/
inductive CodeTree where
  | leaf (c : Symbol)
  | node (l r : CodeTree)

/-- The symbols at the leaves, from left to right. -/
def CodeTree.symbols : CodeTree → List Symbol
  | .leaf c => [c]
  | .node l r => l.symbols ++ r.symbols

/-- Every leaf with its path from the root, "0" left and "1" right (41_tree_builder.md R159). -/
def CodeTree.paths : CodeTree → List (Symbol × Bitstring)
  | .leaf c => [(c, [])]
  | .node l r =>
    l.paths.map (fun p => (p.1, false :: p.2)) ++ r.paths.map (fun p => (p.1, true :: p.2))

/-- The codes of a whole tree: the paths, but "0" for a lone leaf (41_tree_builder.md R154, R162). -/
def CodeTree.codes : CodeTree → List (Symbol × Bitstring)
  | .leaf c => [(c, [false])]
  | .node l r => (CodeTree.node l r).paths

/-- The arena holds the tree `T` below the handle `x`. -/
def CodeTree.StandsAt (A : List Node) : CodeTree → Nat → Prop
  | .leaf c, x => ∃ nd, A[x]? = some nd ∧ nd.kind = 0 ∧ nd.sym = c
  | .node l r, x => ∃ nd, A[x]? = some nd ∧ nd.kind = 1 ∧ nd.left ≠ nodeNone ∧ nd.right ≠ nodeNone ∧
      l.StandsAt A nd.left.toNat ∧ r.StandsAt A nd.right.toNat

/-! ### The shape of a tree -/

theorem CodeTree.symbols_length_pos (T : CodeTree) : 1 ≤ T.symbols.length := by
  induction T with
  | leaf c => exact le_refl 1
  | node l r ihl _ => rw [symbols, List.length_append]; omega

@[simp] theorem CodeTree.paths_map_fst (T : CodeTree) : T.paths.map Prod.fst = T.symbols := by
  induction T with
  | leaf c => rfl
  | node l r ihl ihr =>
    simp [paths, symbols, ← ihl, ← ihr, Function.comp_def]

@[simp] theorem CodeTree.codes_map_fst (T : CodeTree) : T.codes.map Prod.fst = T.symbols := by
  cases T with
  | leaf c => rfl
  | node l r => exact paths_map_fst (.node l r)

/-- A path of a joined tree is a path of one part, with that part's edge in front. -/
theorem CodeTree.mem_paths_node {l r : CodeTree} {c : Symbol} {p : Bitstring} :
    (c, p) ∈ (CodeTree.node l r).paths ↔
      (∃ q, (c, q) ∈ l.paths ∧ p = false :: q) ∨ ∃ q, (c, q) ∈ r.paths ∧ p = true :: q := by
  simp [paths, eq_comm]

/-- Every merge adds at least one leaf beside a path (41_tree_builder.md R160). -/
theorem CodeTree.length_lt_of_mem_paths {T : CodeTree} {c : Symbol} {p : Bitstring}
    (h : (c, p) ∈ T.paths) : p.length < T.symbols.length := by
  induction T generalizing p with
  | leaf d =>
    obtain ⟨-, rfl⟩ : c = d ∧ p = [] := by simpa [paths] using h
    exact Nat.zero_lt_one
  | node l r ihl ihr =>
    have hl := l.symbols_length_pos
    have hr := r.symbols_length_pos
    rw [symbols, List.length_append]
    rcases mem_paths_node.mp h with ⟨q, hq, rfl⟩ | ⟨q, hq, rfl⟩
    · have := ihl hq
      rw [List.length_cons]; omega
    · have := ihr hq
      rw [List.length_cons]; omega

/-- The lengths of codes fit the `LEN` field and none is 0 (41_tree_builder.md R160). -/
theorem CodeTree.length_of_mem_codes {T : CodeTree} (hT : T.symbols.length ≤ 256) {c : Symbol}
    {p : Bitstring} (h : (c, p) ∈ T.codes) : 1 ≤ p.length ∧ p.length ≤ 255 := by
  cases T with
  | leaf d =>
    obtain ⟨-, rfl⟩ : c = d ∧ p = [false] := by simpa [codes] using h
    decide
  | node l r =>
    have hlt := length_lt_of_mem_paths (T := .node l r) h
    rcases mem_paths_node.mp h with ⟨q, -, rfl⟩ | ⟨q, -, rfl⟩ <;>
      · rw [List.length_cons] at hlt ⊢
        omega

/-! ### No code starts another (41_tree_builder.md R164 a, b) -/

/-- Neither code starts the other. -/
def Incomparable (p q : Symbol × Bitstring) : Prop := ¬ p.2 <+: q.2 ∧ ¬ q.2 <+: p.2

theorem CodeTree.paths_incomparable (T : CodeTree) : T.paths.Pairwise Incomparable := by
  induction T with
  | leaf c => exact List.pairwise_singleton ..
  | node l r ihl ihr =>
    have hcons (b : Bool) {ps : List (Symbol × Bitstring)} (h : ps.Pairwise Incomparable) :
        (ps.map (fun p => (p.1, b :: p.2))).Pairwise Incomparable :=
      List.pairwise_map.mpr (h.imp fun hpq => by simpa [Incomparable] using hpq)
    refine List.pairwise_append.mpr ⟨hcons false ihl, hcons true ihr, fun p hp q hq => ?_⟩
    obtain ⟨p', -, rfl⟩ := List.mem_map.mp hp
    obtain ⟨q', -, rfl⟩ := List.mem_map.mp hq
    simp [Incomparable]

theorem CodeTree.codes_incomparable (T : CodeTree) : T.codes.Pairwise Incomparable := by
  cases T with
  | leaf c => exact List.pairwise_singleton ..
  | node l r => exact paths_incomparable (.node l r)

/-! ### The Kraft sum (41_tree_builder.md R164 c) -/

/-- The Kraft sum of a list of codes, scaled by `2 ^ N`. -/
def kraftSum (N : Nat) (cs : List (Symbol × Bitstring)) : Nat :=
  (cs.map fun p => 2 ^ (N - p.2.length)).sum

/-- One more bit in front of every code halves the sum. -/
theorem kraftSum_cons (N : Nat) (b : Bool) (cs : List (Symbol × Bitstring)) :
    kraftSum (N + 1) (cs.map (fun p => (p.1, b :: p.2))) = kraftSum N cs := by
  simp [kraftSum, Function.comp_def]

/-- The paths of a tree of at most `N + 1` leaves fill the whole code space. -/
theorem CodeTree.kraftSum_paths {T : CodeTree} {N : Nat} (h : T.symbols.length ≤ N + 1) :
    kraftSum N T.paths = 2 ^ N := by
  induction T generalizing N with
  | leaf c => simp [kraftSum, paths]
  | node l r ihl ihr =>
    have hl := l.symbols_length_pos
    have hr := r.symbols_length_pos
    rw [symbols, List.length_append] at h
    obtain ⟨M, rfl⟩ : ∃ M, N = M + 1 := ⟨N - 1, by omega⟩
    calc kraftSum (M + 1) (CodeTree.node l r).paths
        = kraftSum M l.paths + kraftSum M r.paths := by
          rw [← kraftSum_cons M false, ← kraftSum_cons M true]
          simp [kraftSum, paths]
      _ = 2 ^ M + 2 ^ M := by rw [ihl (by omega), ihr (by omega)]
      _ = 2 ^ (M + 1) := by rw [Nat.pow_succ]; omega

/-- A lone leaf uses half of the code space, every other tree the whole of it. -/
theorem CodeTree.kraftSum_codes {T : CodeTree} (h : T.symbols.length ≤ 256) :
    kraftSum 256 T.codes = if T.symbols.length = 1 then 2 ^ 255 else 2 ^ 256 := by
  cases T with
  | leaf c => simp [kraftSum, codes, symbols]
  | node l r =>
    have hl := l.symbols_length_pos
    have hr := r.symbols_length_pos
    have hne : (CodeTree.node l r).symbols.length ≠ 1 := by
      rw [symbols, List.length_append]; omega
    rw [if_neg hne]
    exact kraftSum_paths (T := .node l r) (by omega)

/-! ### Trees in the arena -/

/-- Entries appended to the arena leave the trees in it. -/
theorem CodeTree.StandsAt.append {A : List Node} {T : CodeTree} {x : Nat} (h : T.StandsAt A x)
    (B : List Node) : T.StandsAt (A ++ B) x := by
  have hkeep {y : Nat} {nd : Node} (hy : A[y]? = some nd) : (A ++ B)[y]? = some nd := by
    rw [List.getElem?_append_left (List.getElem?_eq_some_iff.mp hy).1, hy]
  induction T generalizing x with
  | leaf c =>
    obtain ⟨nd, hx, hleaf⟩ := h
    exact ⟨nd, hkeep hx, hleaf⟩
  | node l r ihl ihr =>
    obtain ⟨nd, hx, hkind, hleft, hright, hl, hr⟩ := h
    exact ⟨nd, hkeep hx, hkind, hleft, hright, ihl hl, ihr hr⟩

/-- The code assignment below a node prepends the node's own path to the paths of its tree; a depth of
one a leaf is enough (41_tree_builder.md R159, log 12). -/
theorem assignCodes_of_standsAt {A : List Node} {T : CodeTree} {x d : Nat} {path : Bitstring}
    (h : T.StandsAt A x) (hd : T.symbols.length ≤ d) (hpath : path = [] → T.symbols.length ≠ 1) :
    assignCodes A d x path = T.paths.map (fun p => (p.1, path ++ p.2)) := by
  induction T generalizing x d path with
  | leaf c =>
    obtain ⟨nd, hx, hkind, rfl⟩ := h
    obtain ⟨e, rfl⟩ : ∃ e, d = e + 1 := ⟨d - 1, (Nat.sub_add_cancel hd).symm⟩
    have hne : path ≠ [] := fun h0 => hpath h0 rfl
    simp [assignCodes, hx, hkind, hne, CodeTree.paths]
  | node l r ihl ihr =>
    obtain ⟨nd, hx, hkind, -, hright, hl, hr⟩ := h
    have hlpos := l.symbols_length_pos
    have hrpos := r.symbols_length_pos
    rw [CodeTree.symbols, List.length_append] at hd
    obtain ⟨e, rfl⟩ : ∃ e, d = e + 1 := ⟨d - 1, by omega⟩
    have hzero : assignCodes A e nd.left.toNat (path ++ [false]) = _ := ihl hl (by omega) (by simp)
    have hone : assignCodes A e nd.right.toNat (path ++ [true]) = _ := ihr hr (by omega) (by simp)
    simp [assignCodes, hx, hkind, hright, hzero, hone, CodeTree.paths, Function.comp_def]

/-- Every path of a tree in the arena leads to the leaf of its symbol. -/
theorem State.walk_of_mem_paths {s : State} {A : List Node}
    (hA : ∀ y nd, A[y]? = some nd → s.nodeAt y = nd) {T : CodeTree} {x : Nat} (h : T.StandsAt A x)
    {c : Symbol} {p : Bitstring} (hp : (c, p) ∈ T.paths) :
    ∃ y, s.walk x p = some y ∧ (s.nodeAt y).kind = 0 ∧ (s.nodeAt y).sym = c := by
  induction T generalizing x p with
  | leaf d =>
    obtain ⟨nd, hx, hkind, rfl⟩ := h
    obtain ⟨rfl, rfl⟩ : c = nd.sym ∧ p = [] := by simpa [CodeTree.paths] using hp
    exact ⟨x, rfl, by rw [hA x nd hx]; exact hkind, by rw [hA x nd hx]⟩
  | node l r ihl ihr =>
    obtain ⟨nd, hx, hkind, hleft, hright, hl, hr⟩ := h
    rcases CodeTree.mem_paths_node.mp hp with ⟨q, hq, rfl⟩ | ⟨q, hq, rfl⟩
    · simpa [State.walk, hA x nd hx, hkind, hleft] using ihl hl hq
    · simpa [State.walk, hA x nd hx, hkind, hright] using ihr hr hq

end Sys2Proof.Machine
end

section
/-! # The merge loop of BUILD

`Merging` is the invariant of `mergeNodes`. It holds of the queue of leaves, one merge keeps it, and
with one pair left it says what the finished arena is (41_tree_builder.md R153 to R157). -/

namespace Sys2Proof.Machine

/-! ### The queue (41_tree_builder.md R155) -/

theorem keyLe_iff {a b : QueueKey} : keyLe a b = true ↔ a.1 < b.1 ∨ (a.1 = b.1 ∧ a.2 ≤ b.2) :=
  decide_eq_true_iff

theorem keyLe_trans {a b c : QueueKey} (hab : keyLe a b = true) (hbc : keyLe b c = true) :
    keyLe a c = true := by
  rw [keyLe_iff] at *
  omega

theorem keyLe_of_not {a b : QueueKey} (h : ¬ keyLe a b = true) : keyLe b a = true := by
  rw [keyLe_iff] at *
  omega

theorem popMin_eq_none_iff {Q : List QueueKey} : popMin Q = none ↔ Q = [] := by
  cases Q with
  | nil => exact ⟨fun _ => rfl, fun _ => rfl⟩
  | cons x rest =>
    simp only [popMin, reduceCtorEq, iff_false]
    cases popMin rest with
    | none => simp
    | some m => by_cases hx : keyLe x m.1 = true <;> simp [hx]

/-- What is popped is one pair of the queue, and none that remains is below it. -/
theorem popMin_eq_some {Q rest : List QueueKey} {m : QueueKey} (h : popMin Q = some (m, rest)) :
    Q.Perm (m :: rest) ∧ ∀ x ∈ rest, keyLe m x = true := by
  induction Q generalizing m rest with
  | nil => cases h
  | cons x tail ih =>
    rw [popMin] at h
    cases htail : popMin tail with
    | none =>
      rw [htail] at h
      cases h
      rw [popMin_eq_none_iff.mp htail]
      exact ⟨List.Perm.refl _, by simp⟩
    | some popped =>
      obtain ⟨m', others⟩ := popped
      obtain ⟨hperm, hleast⟩ := ih htail
      rw [htail] at h
      by_cases hx : keyLe x m' = true
      · simp only [if_pos hx] at h
        cases h
        refine ⟨List.Perm.refl _, fun y hy => ?_⟩
        rcases List.mem_cons.mp (hperm.mem_iff.mp hy) with rfl | hy
        · exact hx
        · exact keyLe_trans hx (hleast y hy)
      · simp only [if_neg hx] at h
        cases h
        refine ⟨(hperm.cons x).trans (List.Perm.swap ..), fun y hy => ?_⟩
        rcases List.mem_cons.mp hy with rfl | hy
        · exact keyLe_of_not hx
        · exact hleast y hy

/-! ### The arena as a function of handles -/

/-- The entry of a handle; zero beyond the used entries (41_tree_builder.md R158). -/
def entryAt (A : List Node) (h : Nat) : Node := A.getD h Node.zero

theorem entryAt_eq {A : List Node} {h : Nat} {nd : Node} (hnd : A[h]? = some nd) :
    entryAt A h = nd := by
  simp [entryAt, hnd]

theorem getElem?_eq_entryAt {A : List Node} {h : Nat} (hlt : h < A.length) :
    A[h]? = some (entryAt A h) := by
  simp [entryAt, hlt]

theorem entryAt_append {A : List Node} {h : Nat} (hlt : h < A.length) (B : List Node) :
    entryAt (A ++ B) h = entryAt A h :=
  entryAt_eq (by rw [List.getElem?_append_left hlt, getElem?_eq_entryAt hlt])

theorem entryAt_length (A : List Node) (nd : Node) : entryAt (A ++ [nd]) A.length = nd :=
  entryAt_eq List.getElem?_concat_length

/-- Node `h` is a child of one of the nodes `first, …, upto - 1`. -/
def UsedAsChild (node : Nat → Node) (h first upto : Nat) : Prop :=
  ∃ m, first ≤ m ∧ m < upto ∧ ((node m).left.toNat = h ∨ (node m).right.toNat = h)

/-- The key of node `h` is below the key of node `g`. -/
def KeyLt (node : Nat → Node) (h g : Nat) : Prop :=
  (node h).freq.toNat < (node g).freq.toNat ∨ ((node h).freq.toNat = (node g).freq.toNat ∧ h < g)

/-- Node `n` joins the two least of the nodes below `n` that no node from `k` on has as a child
(41_tree_builder.md R156). -/
def JoinsTheTwoLeast (node : Nat → Node) (k n : Nat) : Prop :=
  ∃ a b, a < n ∧ b < n ∧
    (node n).kind = 1 ∧ (node n).sym = 0 ∧ (node n).left.toNat = a ∧ (node n).right.toNat = b ∧
    (node n).freq.toNat = (node a).freq.toNat + (node b).freq.toNat ∧
    ¬ UsedAsChild node a k n ∧ ¬ UsedAsChild node b k n ∧ KeyLt node a b ∧
    ∀ h, h < n → h ≠ a → h ≠ b → ¬ UsedAsChild node h k n → KeyLt node b h

theorem usedAsChild_congr {node node' : Nat → Node} {h first upto : Nat}
    (heq : ∀ m < upto, node m = node' m) :
    UsedAsChild node h first upto ↔ UsedAsChild node' h first upto := by
  refine exists_congr fun m => and_congr_right fun _ => and_congr_right fun hm => ?_
  rw [heq m hm]

theorem usedAsChild_succ {node : Nat → Node} {h first upto : Nat} (hle : first ≤ upto) :
    UsedAsChild node h first (upto + 1) ↔
      UsedAsChild node h first upto ∨ (node upto).left.toNat = h ∨ (node upto).right.toNat = h := by
  constructor
  · rintro ⟨m, hfirst, hm, hchild⟩
    rcases Nat.lt_succ_iff_lt_or_eq.mp hm with hm | rfl
    · exact .inl ⟨m, hfirst, hm, hchild⟩
    · exact .inr hchild
  · rintro (⟨m, hfirst, hm, hchild⟩ | hchild)
    · exact ⟨m, hfirst, by omega, hchild⟩
    · exact ⟨upto, hle, by omega, hchild⟩

theorem JoinsTheTwoLeast.congr {node node' : Nat → Node} {k n : Nat}
    (heq : ∀ m ≤ n, node m = node' m) (h : JoinsTheTwoLeast node k n) :
    JoinsTheTwoLeast node' k n := by
  have hused (g : Nat) : UsedAsChild node g k n ↔ UsedAsChild node' g k n :=
    usedAsChild_congr fun m hm => heq m hm.le
  obtain ⟨a, b, ha, hb, hkind, hsym, hleft, hright, hfreq, hua, hub, hab, hleast⟩ := h
  rw [heq n le_rfl] at hkind hsym hleft hright hfreq
  rw [hused] at hua hub
  rw [KeyLt] at hab
  rw [heq a ha.le, heq b hb.le] at hab hfreq
  refine ⟨a, b, ha, hb, hkind, hsym, hleft, hright, hfreq, hua, hub, hab, fun h hn hna hnb hnu => ?_⟩
  have hkey := hleast h hn hna hnb (mt (hused h).mp hnu)
  rw [KeyLt, heq b hb.le, heq h hn.le] at hkey
  exact hkey

/-- Children have smaller handles than their parents, so the last node is no child. -/
theorem UsedAsChild.succ_lt {node : Nat → Node} {h k upto : Nat}
    (hjoin : ∀ n, k ≤ n → n < upto → JoinsTheTwoLeast node k n) (hused : UsedAsChild node h k upto) :
    h + 1 < upto := by
  obtain ⟨m, hk, hm, hchild⟩ := hused
  obtain ⟨a, b, ha, hb, -, -, hleft, hright, -⟩ := hjoin m hk hm
  omega

/-! ### The invariant -/

/-- Every pair of the queue stands for a tree of the arena, and the trees share out the symbols. -/
def IsForest (A : List Node) (Q : List QueueKey) (symbols : List Symbol) : Prop :=
  ∃ tree : Nat → CodeTree, (∀ q ∈ Q, (tree q.2).StandsAt A q.2) ∧
    (Q.flatMap fun q => (tree q.2).symbols).Perm symbols

/-- The invariant of the merge loop over these leaves, with the queue `Q` and the used entries `A`. -/
structure Merging (leaves : List Node) (Q : List QueueKey) (A : List Node) : Prop where
  leavesFirst : leaves <+: A
  count : A.length + Q.length = 2 * leaves.length
  entries : ∀ q ∈ Q, q.2 < A.length ∧ (entryAt A q.2).freq.toNat = q.1
  nodup : (Q.map Prod.snd).Nodup
  total : (Q.map Prod.fst).sum = (leaves.map fun nd => nd.freq.toNat).sum
  unused : ∀ h < A.length,
    h ∈ Q.map Prod.snd ↔ ¬ UsedAsChild (entryAt A) h leaves.length A.length
  joins : ∀ n, leaves.length ≤ n → n < A.length → JoinsTheTwoLeast (entryAt A) leaves.length n
  forest : IsForest A Q (leaves.map Node.sym)

theorem Merging.length_le {leaves A : List Node} {Q : List QueueKey} (h : Merging leaves Q A) :
    leaves.length ≤ A.length := h.leavesFirst.length_le

/-- The order of the queue does not matter (41_tree_builder.md R155). -/
theorem Merging.perm {leaves A : List Node} {Q Q' : List QueueKey} (hQ : Q.Perm Q')
    (h : Merging leaves Q A) : Merging leaves Q' A where
  leavesFirst := h.leavesFirst
  count := hQ.length_eq ▸ h.count
  entries q hq := h.entries q (hQ.mem_iff.mpr hq)
  nodup := (hQ.map Prod.snd).nodup_iff.mp h.nodup
  total := (hQ.map Prod.fst).sum_eq ▸ h.total
  unused g hg := (hQ.map Prod.snd).mem_iff.symm.trans (h.unused g hg)
  joins := h.joins
  forest := by
    obtain ⟨tree, hstands, hsymbols⟩ := h.forest
    exact ⟨tree, fun q hq => hstands q (hQ.mem_iff.mpr hq), (hQ.flatMap_right _).symm.trans hsymbols⟩

/-- Without merges a leaf queue lists every leaf under its place. -/
theorem mem_leafQueue {leaves : List Node} {q : QueueKey} (hq : q ∈ leafQueue leaves) :
    q.2 < leaves.length ∧ (entryAt leaves q.2).freq.toNat = q.1 := by
  obtain ⟨⟨nd, h⟩, hmem, rfl⟩ := List.mem_map.mp hq
  have hnd : leaves[h]? = some nd := List.mem_zipIdx_iff_getElem?.mp hmem
  exact ⟨(List.getElem?_eq_some_iff.mp hnd).1, by rw [entryAt_eq hnd]⟩

theorem leafQueue_map_fst (leaves : List Node) :
    (leafQueue leaves).map Prod.fst = leaves.map fun nd => nd.freq.toNat := by
  rw [leafQueue, List.map_map]
  conv_rhs => rw [← List.zipIdx_map_fst 0 leaves, List.map_map]
  rfl

theorem leafQueue_map_snd (leaves : List Node) :
    (leafQueue leaves).map Prod.snd = List.range leaves.length := by
  rw [leafQueue, List.map_map, List.range_eq_range', ← List.zipIdx_map_snd 0 leaves]
  rfl

@[simp] theorem leafQueue_length (leaves : List Node) : (leafQueue leaves).length = leaves.length := by
  simp [leafQueue]

/-- Before the first merge every leaf is a tree of its own (41_tree_builder.md R153). -/
theorem isForest_leafQueue {leaves : List Node} (hleaf : ∀ nd ∈ leaves, nd.kind = 0) :
    IsForest leaves (leafQueue leaves) (leaves.map Node.sym) := by
  refine ⟨fun h => .leaf (entryAt leaves h).sym, fun q hq => ?stands, ?symbols⟩
  case stands =>
    have hget := getElem?_eq_entryAt (mem_leafQueue hq).1
    exact ⟨_, hget, hleaf _ (List.mem_of_getElem? hget), rfl⟩
  case symbols =>
    have heq : ((leafQueue leaves).flatMap fun q => [(entryAt leaves q.2).sym]) =
        leaves.map Node.sym := by
      calc (leafQueue leaves).flatMap (fun q => [(entryAt leaves q.2).sym])
          = ((leafQueue leaves).map Prod.snd).map fun h => (entryAt leaves h).sym := by
            rw [List.map_map, List.map_eq_flatMap]; rfl
        _ = leaves.map Node.sym := by
            rw [leafQueue_map_snd]
            refine List.ext_getElem (by simp) fun i hi hi' => ?_
            have hlt : i < leaves.length := by simpa using hi
            simp [entryAt, hlt]
    exact List.Perm.of_eq heq

/-- The invariant holds of the leaves (41_tree_builder.md R150, R153). -/
theorem Merging.initial {leaves : List Node} (hleaf : ∀ nd ∈ leaves, nd.kind = 0) :
    Merging leaves (leafQueue leaves) leaves where
  leavesFirst := List.prefix_rfl
  count := by rw [leafQueue_length]; omega
  entries _ hq := mem_leafQueue hq
  nodup := leafQueue_map_snd leaves ▸ List.nodup_range
  total := by rw [leafQueue_map_fst]
  unused h hlt := by
    rw [leafQueue_map_snd, List.mem_range]
    refine iff_of_true hlt ?_
    rintro ⟨m, hm, hm', -⟩
    omega
  joins n hn hn' := by omega
  forest := isForest_leafQueue hleaf

/-! ### One merge -/

/-- The entry that a merge of the pairs `p` and `q` appends (41_tree_builder.md R156). -/
def joinOf (p q : QueueKey) : Node :=
  internalNode (p.1 + q.1) (BitVec.ofNat 9 p.2) (BitVec.ofNat 9 q.2)

theorem joinOf_left {p q : QueueKey} (h : p.2 < 512) : (joinOf p q).left.toNat = p.2 :=
  Nat.mod_eq_of_lt h

theorem joinOf_right {p q : QueueKey} (h : q.2 < 512) : (joinOf p q).right.toNat = q.2 :=
  Nat.mod_eq_of_lt h

theorem joinOf_freq {p q : QueueKey} (h : p.1 + q.1 < 2 ^ 32) :
    (joinOf p q).freq.toNat = p.1 + q.1 := Nat.mod_eq_of_lt h

theorem ne_nodeNone {x : BitVec 9} (h : x.toNat < 511) : x ≠ nodeNone := by
  rintro rfl
  exact absurd h (by decide)

/-- The two popped trees become one, under the appended entry. -/
theorem IsForest.join {A : List Node} {p q : QueueKey} {rest : List QueueKey} {symbols : List Symbol}
    (hp : p.2 < 511) (hq : q.2 < 511) (hrest : ∀ r ∈ rest, r.2 < A.length)
    (h : IsForest A (p :: q :: rest) symbols) :
    IsForest (A ++ [joinOf p q]) ((p.1 + q.1, A.length) :: rest) symbols := by
  obtain ⟨tree, hstands, hsymbols⟩ := h
  refine ⟨Function.update tree A.length (.node (tree p.2) (tree q.2)), fun r hr => ?stands, ?symbols⟩
  case stands =>
    rcases List.mem_cons.mp hr with rfl | hr
    · have hleft := joinOf_left (q := q) (show p.2 < 512 by omega)
      have hright := joinOf_right (p := p) (show q.2 < 512 by omega)
      rw [Function.update_self]
      refine ⟨joinOf p q, List.getElem?_concat_length, rfl, ne_nodeNone (by omega),
        ne_nodeNone (by omega), ?_, ?_⟩
      · rw [hleft]; exact (hstands p (by simp)).append _
      · rw [hright]; exact (hstands q (by simp)).append _
    · rw [Function.update_of_ne (hrest r hr).ne]
      exact (hstands r (by simp [hr])).append _
  case symbols =>
    have hkeep : (rest.flatMap fun r =>
        (Function.update tree A.length (.node (tree p.2) (tree q.2)) r.2).symbols) =
          rest.flatMap fun r => (tree r.2).symbols :=
      List.flatMap_congr fun r hr => by rw [Function.update_of_ne (hrest r hr).ne]
    simpa [hkeep, CodeTree.symbols] using hsymbols

/-- A pair that is not below another one in the queue order is strictly above it when the handles
differ. -/
theorem keyLt_of_keyLe {node : Nat → Node} {p q : QueueKey} (hle : keyLe p q = true)
    (hne : p.2 ≠ q.2) (hp : (node p.2).freq.toNat = p.1) (hq : (node q.2).freq.toNat = q.1) :
    KeyLt node p.2 q.2 := by
  rw [keyLe_iff] at hle
  rw [KeyLt, hp, hq]
  omega

/-- The appended entry joins the two least unused nodes. -/
theorem Merging.joins_last {leaves A : List Node} {p q : QueueKey} {rest : List QueueKey}
    (h : Merging leaves (p :: q :: rest) A) (hA : A.length < 511) (hfreq : p.1 + q.1 < 2 ^ 32)
    (hp : ∀ r ∈ q :: rest, keyLe p r = true) (hq : ∀ r ∈ rest, keyLe q r = true) :
    JoinsTheTwoLeast (entryAt (A ++ [joinOf p q])) leaves.length A.length := by
  obtain ⟨hpA, hpf⟩ := h.entries p (by simp)
  obtain ⟨hqA, hqf⟩ := h.entries q (by simp)
  have hkeep (m : Nat) (hm : m < A.length) : entryAt (A ++ [joinOf p q]) m = entryAt A m :=
    entryAt_append hm _
  have hunused (g : Nat) (hg : g < A.length) :
      ¬ UsedAsChild (entryAt (A ++ [joinOf p q])) g leaves.length A.length ↔
        g ∈ (p :: q :: rest).map Prod.snd := by
    rw [usedAsChild_congr hkeep, h.unused g hg]
  have hne : p.2 ≠ q.2 := fun heq => (List.nodup_cons.mp h.nodup).1 (by simp [heq])
  refine ⟨p.2, q.2, hpA, hqA, ?_, ?_, ?_, ?_, ?_, (hunused _ hpA).mpr (by simp),
    (hunused _ hqA).mpr (by simp), ?_, fun g hg hgp hgq hgu => ?_⟩
  · rw [entryAt_length]; rfl
  · rw [entryAt_length]; rfl
  · rw [entryAt_length, joinOf_left (by omega)]
  · rw [entryAt_length, joinOf_right (by omega)]
  · rw [entryAt_length, joinOf_freq hfreq, hkeep _ hpA, hkeep _ hqA, hpf, hqf]
  · exact keyLt_of_keyLe (hp q (by simp)) hne (by rw [hkeep _ hpA, hpf]) (by rw [hkeep _ hqA, hqf])
  · obtain ⟨r, hr, rfl⟩ : ∃ r ∈ rest, r.2 = g := by
      simpa [hgp, hgq] using (hunused g hg).mp hgu
    obtain ⟨-, hrf⟩ := h.entries r (by simp [hr])
    exact keyLt_of_keyLe (hq r hr) hgq.symm (by rw [hkeep _ hqA, hqf]) (by rw [hkeep _ hg, hrf])

/-- The handles that remain are those of the queue but for the two popped ones. -/
theorem Merging.mem_rest_iff {leaves A : List Node} {p q : QueueKey} {rest : List QueueKey}
    (h : Merging leaves (p :: q :: rest) A) {g : Nat} :
    g ∈ rest.map Prod.snd ↔ g ∈ (p :: q :: rest).map Prod.snd ∧ ¬ (p.2 = g ∨ q.2 = g) := by
  obtain ⟨hpnot, hrest⟩ := List.nodup_cons.mp h.nodup
  obtain ⟨hqnot, -⟩ := List.nodup_cons.mp hrest
  constructor
  · intro hg
    refine ⟨List.mem_cons_of_mem _ (List.mem_cons_of_mem _ hg), ?_⟩
    rintro (rfl | rfl)
    · exact hpnot (List.mem_cons_of_mem _ hg)
    · exact hqnot hg
  · rintro ⟨hg, hne⟩
    simp only [List.map_cons, List.mem_cons] at hg
    tauto

/-- After a merge the unused nodes are the new one and those that remain in the queue. -/
theorem Merging.unused_join {leaves A : List Node} {p q : QueueKey} {rest : List QueueKey}
    (h : Merging leaves (p :: q :: rest) A) (hA : A.length < 511) {g : Nat}
    (hg : g < A.length + 1) :
    g ∈ A.length :: rest.map Prod.snd ↔
      ¬ UsedAsChild (entryAt (A ++ [joinOf p q])) g leaves.length (A.length + 1) := by
  obtain ⟨hpA, -⟩ := h.entries p (by simp)
  obtain ⟨hqA, -⟩ := h.entries q (by simp)
  rw [usedAsChild_succ h.length_le, entryAt_length, joinOf_left (by omega), joinOf_right (by omega),
    usedAsChild_congr fun m hm => entryAt_append hm _, List.mem_cons]
  rcases Nat.lt_succ_iff_lt_or_eq.mp hg with hlt | rfl
  · rw [or_iff_right hlt.ne, h.mem_rest_iff, h.unused g hlt, ← not_or]
  · refine iff_of_true (.inl rfl) ?_
    rintro (hused | heq | heq)
    · exact absurd (hused.succ_lt h.joins) (by omega)
    · exact absurd heq hpA.ne
    · exact absurd heq hqA.ne

/-- One merge keeps the invariant (41_tree_builder.md R156); 511 entries and 32 bits of frequency are
enough (R153, R165). -/
theorem Merging.step {leaves A : List Node} {p q : QueueKey} {rest : List QueueKey}
    (h : Merging leaves (p :: q :: rest) A) (hcap : leaves.length ≤ 256)
    (hsum : (leaves.map fun nd => nd.freq.toNat).sum < 2 ^ 32)
    (hp : ∀ r ∈ q :: rest, keyLe p r = true) (hq : ∀ r ∈ rest, keyLe q r = true) :
    Merging leaves ((p.1 + q.1, A.length) :: rest) (A ++ [joinOf p q]) := by
  have hcount : A.length + (rest.length + 2) = 2 * leaves.length := h.count
  have htotal : p.1 + (q.1 + (rest.map Prod.fst).sum) = _ := h.total
  have hfreq : p.1 + q.1 < 2 ^ 32 := by omega
  have hA : A.length < 511 := by omega
  have hlen : (A ++ [joinOf p q]).length = A.length + 1 := by simp
  have hkeep (m : Nat) (hm : m < A.length) : entryAt (A ++ [joinOf p q]) m = entryAt A m :=
    entryAt_append hm _
  obtain ⟨hpA, -⟩ := h.entries p (by simp)
  obtain ⟨hqA, -⟩ := h.entries q (by simp)
  have hrest (r) (hr : r ∈ rest) := h.entries r (by simp [hr])
  exact {
    leavesFirst := h.leavesFirst.trans (List.prefix_append _ _)
    count := by rw [hlen, List.length_cons]; omega
    entries := fun r hr => by
      rw [hlen]
      rcases List.mem_cons.mp hr with rfl | hr
      · exact ⟨Nat.lt_succ_self _, by rw [entryAt_length, joinOf_freq hfreq]⟩
      · obtain ⟨hlt, hrf⟩ := hrest r hr
        exact ⟨by omega, by rw [hkeep _ hlt, hrf]⟩
    nodup := by
      have hfresh : A.length ∉ rest.map Prod.snd := fun hmem => by
        obtain ⟨r, hr, heq⟩ := List.mem_map.mp hmem
        exact (hrest r hr).1.ne heq
      exact List.nodup_cons.mpr ⟨hfresh, h.nodup.of_cons.of_cons⟩
    total := by
      rw [List.map_cons, List.sum_cons, ← htotal]
      omega
    unused := fun g hg => by
      rw [hlen] at hg ⊢
      exact h.unused_join hA hg
    joins := fun n hn hn' => by
      rcases Nat.lt_succ_iff_lt_or_eq.mp (hlen ▸ hn') with hlt | rfl
      · exact (h.joins n hn hlt).congr fun m hm => (hkeep m (by omega)).symm
      · exact h.joins_last hA hfreq hp hq
    forest := h.forest.join (by omega) (by omega) fun r hr => (hrest r hr).1 }

/-! ### The whole loop -/

/-- With a turn for every pair the loop ends with one pair left, whose handle is the root
(41_tree_builder.md R157, log 12). -/
theorem Merging.mergeNodes {leaves A : List Node} {Q : List QueueKey} {turns : Nat}
    (h : Merging leaves Q A) (hcap : leaves.length ≤ 256)
    (hsum : (leaves.map fun nd => nd.freq.toNat).sum < 2 ^ 32) (hne : Q ≠ [])
    (hturns : Q.length ≤ turns) :
    ∃ f, Merging leaves [(f, (mergeNodes turns Q A).2)] (mergeNodes turns Q A).1 := by
  induction turns generalizing Q A with
  | zero => exact absurd (List.length_eq_zero_iff.mp (Nat.le_zero.mp hturns)) hne
  | succ turns ih =>
    rw [Machine.mergeNodes]
    cases hpop : popMin Q with
    | none => exact absurd (popMin_eq_none_iff.mp hpop) hne
    | some popped =>
      obtain ⟨p, Q1⟩ := popped
      obtain ⟨hperm, hp⟩ := popMin_eq_some hpop
      cases hpop1 : popMin Q1 with
      | none =>
        rw [popMin_eq_none_iff.mp hpop1] at hperm
        simp only [hpop1]
        exact ⟨p.1, h.perm hperm⟩
      | some popped1 =>
        obtain ⟨q, rest⟩ := popped1
        obtain ⟨hperm1, hq⟩ := popMin_eq_some hpop1
        have hQ : Q.Perm (p :: q :: rest) := hperm.trans (hperm1.cons p)
        have hlen : Q.length = rest.length + 2 := hQ.length_eq
        have hstep := (h.perm hQ).step hcap hsum (fun r hr => hp r (hperm1.mem_iff.mpr hr)) hq
        simp only [hpop1]
        exact ih hstep (by simp) (by simp; omega)

/-- The root of a finished arena with at least one merge is its last entry (41_tree_builder.md R157). -/
theorem Merging.root_eq {leaves A : List Node} {f root : Nat} (h : Merging leaves [(f, root)] A)
    (hpos : 1 ≤ A.length) : root + 1 = A.length := by
  have hlast : A.length - 1 ∈ [(f, root)].map Prod.snd := by
    refine (h.unused _ (by omega)).mpr fun hused => ?_
    have := hused.succ_lt h.joins
    omega
  have : A.length - 1 = root := by simpa using hlast
  omega

end Sys2Proof.Machine
end

section
/-! # BUILD

What BUILD writes, read off the finished merge loop and its code tree (41_tree_builder.md). -/

namespace Sys2Proof.Machine

/-! ### The symbols and their leaves (41_tree_builder.md R151, R153) -/

theorem State.presentInFreq_length (s : State) : s.presentInFreq.length = s.distinctCount := rfl

theorem State.mem_presentInFreq {s : State} {c : Symbol} : c ∈ s.presentInFreq ↔ s.freqOf c ≠ 0 := by
  simp [State.presentInFreq, mem_allSymbols]

theorem State.nodup_presentInFreq (s : State) : s.presentInFreq.Nodup := nodup_allSymbols.filter _

theorem State.distinctCount_le (s : State) : s.distinctCount ≤ 256 :=
  (List.length_filter_le ..).trans_eq (by simp [allSymbols])

@[simp] theorem State.leaves_length (s : State) : s.leaves.length = s.distinctCount := by
  rw [State.leaves, List.length_map, State.presentInFreq_length]

theorem State.leaves_map_sym (s : State) : s.leaves.map Node.sym = s.presentInFreq := by
  simp [State.leaves, leafNode, Function.comp_def]

theorem State.kind_of_mem_leaves {s : State} {nd : Node} (h : nd ∈ s.leaves) : nd.kind = 0 := by
  obtain ⟨c, -, rfl⟩ := List.mem_map.mp h
  rfl

/-- A counter keeps its value when it is widened (41_tree_builder.md R165). -/
theorem leafNode_freq_toNat (f : BitVec 24) (c : Symbol) :
    (leafNode f.toNat c).freq.toNat = f.toNat :=
  Nat.mod_eq_of_lt (f.isLt.trans (by decide))

/-- A leaf as the spec writes it (41_tree_builder.md R150). -/
theorem leafNode_eq (f : BitVec 24) (c : Symbol) :
    leafNode f.toNat c =
      { kind := 0, freq := f.setWidth 32, sym := c, left := 0x1FF, right := 0x1FF } := by
  rw [leafNode, BitVec.ofNat_toNat]
  rfl

/-- The leaves carry the whole table: a symbol left out has counter 0. -/
theorem State.sum_freq_leaves (s : State) :
    (s.leaves.map fun nd => nd.freq.toNat).sum = s.freqSum := by
  have hfilter (cs : List Symbol) :
      ((cs.filter fun c => s.freqOf c != 0).map fun c => (s.freqOf c).toNat).sum =
        (cs.map fun c => (s.freqOf c).toNat).sum := by
    induction cs with
    | nil => rfl
    | cons c cs ih =>
      rw [List.filter_cons, List.map_cons, List.sum_cons, ← ih]
      by_cases hc : s.freqOf c = 0#24 <;> simp [hc]
  rw [State.leaves, List.map_map, State.freqSum, ← hfilter]
  simp only [Function.comp_def, leafNode_freq_toNat, State.presentInFreq]

/-- No sum of frequencies leaves the 32-bit field (41_tree_builder.md R165). -/
theorem State.freqSum_lt (s : State) : s.freqSum < 2 ^ 32 := by
  have hle : s.freqSum ≤ (allSymbols.map fun c => (s.freqOf c).toNat).length • (2 ^ 24 - 1) := by
    refine List.sum_le_card_nsmul _ _ fun f hf => ?_
    obtain ⟨c, -, rfl⟩ := List.mem_map.mp hf
    have := (s.freqOf c).isLt
    omega
  have hlen : (allSymbols.map fun c => (s.freqOf c).toNat).length = 256 := by simp [allSymbols]
  rw [hlen, smul_eq_mul] at hle
  omega

/-! ### The tree of a frequency table -/

/-- One symbol: a leaf under a synthesized root (41_tree_builder.md R154). -/
theorem buildTree_of_single {s : State} {c : Symbol} (h : s.presentInFreq = [c]) :
    buildTree s.leaves =
      ([leafNode (s.freqOf c).toNat c, internalNode (s.freqOf c).toNat 0 nodeNone], 1) := by
  rw [State.leaves, h, List.map_singleton, buildTree, leafNode_freq_toNat]

/-- Two or more symbols: the merge loop runs to its end (41_tree_builder.md R156). -/
theorem buildTree_of_two_le {s : State} (h : 2 ≤ s.distinctCount) :
    ∃ f, Merging s.leaves [(f, (buildTree s.leaves).2)] (buildTree s.leaves).1 := by
  have hne : leafQueue s.leaves ≠ [] := by
    rw [← List.length_pos_iff, leafQueue_length, s.leaves_length]
    omega
  have hbuild : buildTree s.leaves = mergeNodes s.leaves.length (leafQueue s.leaves) s.leaves := by
    rw [← s.leaves_length] at h
    match s.leaves, h with
    | _ :: _ :: _, _ => rfl
  rw [hbuild]
  refine (Merging.initial fun nd => State.kind_of_mem_leaves).mergeNodes ?cap ?sum hne ?turns
  case cap => rw [s.leaves_length]; exact s.distinctCount_le
  case sum => rw [s.sum_freq_leaves]; exact s.freqSum_lt
  case turns => rw [leafQueue_length]

/-- The number of symbols decides which tree BUILD makes. -/
theorem State.single_or_two_le {s : State} (h : 1 ≤ s.distinctCount) :
    (s.distinctCount = 1 ∧ ∃ c, s.presentInFreq = [c]) ∨ 2 ≤ s.distinctCount := by
  rcases h.eq_or_lt with h1 | h2
  · exact .inl ⟨h1.symm, List.length_eq_one_iff.mp h1.symm⟩
  · exact .inr h2

theorem Merging.arena_length {leaves A : List Node} {q : QueueKey} (h : Merging leaves [q] A) :
    A.length = 2 * leaves.length - 1 := by
  have := h.count
  rw [List.length_singleton] at this
  omega

/-- At most 511 entries are used (41_tree_builder.md R153). -/
theorem State.buildTree_length_le {s : State} (h : 1 ≤ s.distinctCount) :
    (buildTree s.leaves).1.length ≤ 511 := by
  rcases s.single_or_two_le h with ⟨-, c, hc⟩ | h2
  · rw [buildTree_of_single hc]
    simp
  · obtain ⟨f, hm⟩ := buildTree_of_two_le h2
    have := s.distinctCount_le
    rw [hm.arena_length, s.leaves_length]
    omega

/-! ### What BUILD writes -/

/-- The state after a successful BUILD (41_tree_builder.md R163). -/
def State.built (s : State) : State :=
  (s.writeTree (buildTree s.leaves).1 (buildTree s.leaves).2).complete

theorem exec_build (s : State) : exec .build s = s.finish (buildRule s) := rfl

theorem exec_build_eq_built {s : State} (h : 1 ≤ s.distinctCount) :
    exec .build s = .next s.built := by
  rcases buildRule_eq s with ⟨hnil, -⟩ | ⟨-, hr⟩
  · rw [← s.presentInFreq_length, hnil] at h
    exact absurd h (by decide)
  · rw [exec_build, hr, State.finish_ok, State.built]

/-- Settles O30: with all counters 0 no symbol is present. -/
theorem buildRaisesEmptyInput : Obligations.BuildRaisesEmptyInput := by
  intro s hzero
  rcases buildRule_eq s with ⟨-, hr⟩ | ⟨hne, -⟩
  · rw [exec_build, hr, State.finish_raised]
    rfl
  · obtain ⟨c, hc⟩ := List.exists_mem_of_ne_nil _ hne
    exact absurd (hzero c) (State.mem_presentInFreq.mp hc)

theorem State.one_le_distinctCount {s : State} {c : Symbol} (h : s.freqOf c ≠ 0) :
    1 ≤ s.distinctCount :=
  List.length_pos_of_mem (State.mem_presentInFreq.mpr h)

theorem State.built_symCount (s : State) : s.built.symCount.toNat = s.distinctCount :=
  Nat.mod_eq_of_lt (s.distinctCount_le.trans_lt (by decide))

/-- Settles O31: the writes are those of `State.writeTree`. -/
theorem buildCompletes : Obligations.BuildCompletes := by
  rintro s ⟨c, hc⟩
  exact ⟨s.built, exec_build_eq_built (State.one_le_distinctCount hc), rfl, s.built_symCount⟩

/-- The arena of a state holds the used entries, and zero beyond them (41_tree_builder.md R158). -/
theorem State.built_nodeAt {s : State} (h : 1 ≤ s.distinctCount) :
    s.built.nodeAt = entryAt (buildTree s.leaves).1 := by
  have hle := State.buildTree_length_le h
  funext x
  show (arenaOf (buildTree s.leaves).1).toList.getD x Node.zero = _
  rcases Nat.lt_or_ge x 511 with hx | hx
  · simp [arenaOf, entryAt, List.getD_eq_getElem?_getD, hx]
  · simp [arenaOf, entryAt, List.getD_eq_getElem?_getD, hx, hle.trans hx]

theorem State.built_nodeCount {s : State} (h : 1 ≤ s.distinctCount) :
    s.built.nodeCount.toNat = (buildTree s.leaves).1.length :=
  Nat.mod_eq_of_lt ((State.buildTree_length_le h).trans_lt (by decide))

theorem eq_built_of_exec {s t : State} (h : 1 ≤ s.distinctCount) (ht : exec .build s = .next t) :
    t = s.built :=
  (Host.Outcome.next.inj ((exec_build_eq_built h).symm.trans ht)).symm

/-! ### The arena -/

/-- The leaves are the first entries, whatever follows them (41_tree_builder.md R153). -/
theorem State.leaves_isPrefix_buildTree {s : State} (h : 1 ≤ s.distinctCount) :
    s.leaves <+: (buildTree s.leaves).1 := by
  rcases s.single_or_two_le h with ⟨-, c, hc⟩ | h2
  · rw [buildTree_of_single hc, State.leaves, hc]
    exact List.prefix_append [_] [_]
  · obtain ⟨f, hm⟩ := buildTree_of_two_le h2
    exact hm.leavesFirst

/-- Settles O33: the leaves stand first in the used entries, and the rest of the arena is zero. -/
theorem buildLeavesAndUnusedEntries : Obligations.BuildLeavesAndUnusedEntries := by
  intro s t h ht
  obtain rfl := eq_built_of_exec h ht
  rw [State.built_nodeAt h, State.built_nodeCount h]
  constructor
  · intro j c hj
    have hleaf : s.leaves[j]? = some (leafNode (s.freqOf c).toNat c) := by
      rw [State.leaves, List.getElem?_map, State.presentInFreq, hj]
      rfl
    obtain ⟨hlt, hget⟩ := List.getElem?_eq_some_iff.mp hleaf
    rw [← leafNode_eq, ← hget]
    exact entryAt_eq (List.prefix_iff_getElem?.mp (State.leaves_isPrefix_buildTree h) j hlt)
  · intro x hx
    rw [entryAt, List.getD_eq_default _ _ hx]
    rfl

/-- Settles O32: the count of `Merging` gives the formulas, its total the frequency of the root. -/
theorem buildRootAndCount : Obligations.BuildRootAndCount := by
  intro s t h ht
  obtain rfl := eq_built_of_exec h ht
  have hroot : s.built.root = BitVec.ofNat 9 (buildTree s.leaves).2 := rfl
  have hsum := s.sum_freq_leaves
  rw [State.built_nodeAt h, State.built_nodeCount h, hroot]
  rcases s.single_or_two_le h with ⟨h1, c, hc⟩ | h2
  · refine ⟨fun h2 => by omega, fun _ => ?_, ?_⟩
    · rw [buildTree_of_single hc]
      exact ⟨rfl, rfl⟩
    · rw [buildTree_of_single hc, ← hsum, State.leaves, hc]
      rfl
  · obtain ⟨f, hm⟩ := buildTree_of_two_le h2
    have hlen := hm.arena_length
    rw [s.leaves_length] at hlen
    have hrootEq := hm.root_eq (by omega)
    have hle := s.distinctCount_le
    have hsmall : (BitVec.ofNat 9 (buildTree s.leaves).2).toNat = (buildTree s.leaves).2 :=
      Nat.mod_eq_of_lt (by omega)
    obtain ⟨-, hfreq⟩ := hm.entries _ (List.mem_singleton_self _)
    have htotal := hm.total
    rw [hsmall]
    refine ⟨fun _ => ⟨by omega, hlen⟩, fun h1 => by omega, ?_⟩
    rw [hfreq, ← hsum, ← htotal]
    simp

/-- Settles O35: the invariant `Merging` holds of the finished arena. -/
theorem buildMergesTheTwoLeast : Obligations.BuildMergesTheTwoLeast := by
  intro s t h2 ht n hn hn'
  have h : 1 ≤ s.distinctCount := by omega
  obtain rfl := eq_built_of_exec h ht
  obtain ⟨f, hm⟩ := buildTree_of_two_le h2
  have hjoin : JoinsTheTwoLeast s.built.nodeAt s.distinctCount n := by
    rw [State.built_nodeAt h, ← s.leaves_length]
    refine hm.joins n ?_ ?_
    · rwa [s.leaves_length]
    · rwa [hm.arena_length, s.leaves_length]
  exact hjoin

end Sys2Proof.Machine
end

section
/-! # The code table that BUILD writes

The code ROM holds the codes of the code tree, one for each present symbol. None of them starts
another, so the table passes COMMIT_TABLE (41_tree_builder.md R159 to R164). -/

namespace Sys2Proof.Machine

/-! ### The entry of a code (41_tree_builder.md R161) -/

section
variable {p : Bitstring}

theorem CodeEntry.ofString_len (h : p.length ≤ 255) :
    (CodeEntry.ofString p).len.toNat = p.length :=
  Nat.mod_eq_of_lt (by omega)

theorem CodeEntry.ofString_value (h : p.length ≤ 255) :
    (CodeEntry.ofString p).value.toNat = bitsVal p :=
  Nat.mod_eq_of_lt ((bitsVal_lt p).trans_le (Nat.pow_le_pow_right (by decide) (by omega)))

theorem CodeEntry.ofString_string (h : p.length ≤ 255) : (CodeEntry.ofString p).string = p := by
  rw [CodeEntry.string, ofString_len h, ofString_value h, strOf_bitsVal]

theorem CodeEntry.ofString_wf (h : p.length ≤ 255) : (CodeEntry.ofString p).wf := by
  rw [CodeEntry.wf, ofString_len h, ofString_value h]
  exact bitsVal_lt p

theorem CodeEntry.present_iff {e : CodeEntry} : e.present = true ↔ 1 ≤ e.len.toNat := by
  rw [CodeEntry.present, bne_iff_ne, ne_eq, ← BitVec.toNat_inj, Nat.one_le_iff_ne_zero]
  rfl

end

/-! ### What COMMIT_TABLE accepts (42_code_rom.md R174, R175) -/

/-- Dropping low bits of the value drops bits at the end of the string. -/
theorem strOf_shiftRight_isPrefix {m n : Nat} (h : m ≤ n) (v : Nat) :
    strOf m (v >>> (n - m)) <+: strOf n v := by
  refine List.prefix_iff_getElem?.mpr fun i hi => ?_
  have him : i < m := by simpa using hi
  have hin : i < (strOf n v).length := by rw [strOf_length]; omega
  rw [List.getElem?_eq_getElem hin, strOf_getElem, strOf_getElem, Nat.testBit_shiftRight]
  congr 2
  omega

/-- The check of reason 3 only fires when one code starts another. -/
theorem CodeEntry.string_isPrefix_of_prefixes {e f : CodeEntry} (h : e.prefixes f = true) :
    e.string <+: f.string := by
  obtain ⟨hle, hvalue⟩ : e.len.toNat ≤ f.len.toNat ∧
      f.value.toNat >>> (f.len.toNat - e.len.toNat) = e.value.toNat := by
    simpa [CodeEntry.prefixes] using h
  rw [CodeEntry.string, ← hvalue]
  exact strOf_shiftRight_isPrefix hle _

theorem CodeEntry.hasStrayBits_eq_false {e : CodeEntry} (h : e.wf) : e.hasStrayBits = false := by
  simp [CodeEntry.hasStrayBits, Nat.shiftRight_eq_zero _ _ h]

theorem State.mem_presentInRom {s : State} {c : Symbol} :
    c ∈ s.presentInRom ↔ (s.entry c).present = true := by
  simp [State.presentInRom, mem_allSymbols]

/-- A table with (a), (b), (c) of 42_code_rom.md R173 passes every check of COMMIT_TABLE. -/
theorem State.tableFault_eq_none {s : State} (h : s.romIsPrefixCode) : s.tableFault = none := by
  obtain ⟨⟨c, hc⟩, hwf, hfree⟩ := h
  have hne : s.presentInRom ≠ [] := List.ne_nil_of_mem (State.mem_presentInRom.mpr hc)
  have hstray : (s.presentInRom.find? fun c => (s.entry c).hasStrayBits) = none := by
    refine List.find?_eq_none.mpr fun c hc => ?_
    rw [CodeEntry.hasStrayBits_eq_false (hwf c (State.mem_presentInRom.mp hc))]
    exact Bool.false_ne_true
  have hprefixed (c : Symbol) (hc : c ∈ s.presentInRom) : s.prefixedBy s.presentInRom c = none := by
    refine List.find?_eq_none.mpr fun d hd hcd => ?_
    obtain ⟨hne, hpre⟩ : d ≠ c ∧ (s.entry c).prefixes (s.entry d) = true := by simpa using hcd
    exact hfree c d hne.symm (State.mem_presentInRom.mp hc) (State.mem_presentInRom.mp hd)
      (CodeEntry.string_isPrefix_of_prefixes hpre)
  simp only [State.tableFault, if_neg hne, hstray]
  exact List.findSome?_eq_none_iff.mpr fun c hc => by rw [hprefixed c hc, Option.map_none]

/-- COMMIT_TABLE on a table with (a), (b), (c) of R173 commits it with its number of entries
(42_code_rom.md R175). -/
theorem exec_commitTable_of_romIsPrefixCode {s : State} (h : s.romIsPrefixCode) :
    exec .commitTable s = .next (State.complete
      { s with codeValid := true, symCount := BitVec.ofNat 9 s.presentInRom.length }) := by
  show s.finish (commitRule s) = _
  rw [commitRule, State.tableFault_eq_none h, State.finish_ok]

/-! ### The code tree of a table -/

/-- The lookup in a list with one pair a key finds every pair. -/
theorem lookup_eq_some_of_mem {cs : List (Symbol × Bitstring)} (hnodup : (cs.map Prod.fst).Nodup)
    {c : Symbol} {p : Bitstring} (h : (c, p) ∈ cs) : cs.lookup c = some p := by
  obtain ⟨before, after, rfl⟩ := List.append_of_mem h
  refine List.lookup_eq_some_iff.mpr ⟨before, after, rfl, fun q hq => ?_⟩
  rw [List.map_append, List.map_cons] at hnodup
  have hdisjoint := (List.nodup_append.mp hnodup).2.2 q.1 (List.mem_map_of_mem hq) c (by simp)
  exact bne_iff_ne.mpr hdisjoint.symm

/-- The code ROM of `t` holds the codes of the tree `T`, whose leaves are the symbols present in the
frequency table of `s`, and the arena of `t` leads along each code to the leaf of its symbol. -/
structure State.CodedBy (s t : State) (T : CodeTree) : Prop where
  symbols : T.symbols.Perm s.presentInFreq
  rom : t.rom = romOf T.codes
  walks : ∀ c p, (c, p) ∈ T.codes →
    ∃ x, t.walk t.root.toNat p = some x ∧ (t.nodeAt x).kind = 0 ∧ (t.nodeAt x).sym = c

section
variable {s t : State} {T : CodeTree} {c : Symbol} {p : Bitstring}

theorem State.CodedBy.symbols_length (h : s.CodedBy t T) : T.symbols.length = s.distinctCount :=
  h.symbols.length_eq

theorem State.CodedBy.length_of_mem (h : s.CodedBy t T) (hp : (c, p) ∈ T.codes) :
    1 ≤ p.length ∧ p.length ≤ 255 :=
  CodeTree.length_of_mem_codes (h.symbols_length.trans_le s.distinctCount_le) hp

theorem State.CodedBy.mem_symbols (h : s.CodedBy t T) : c ∈ T.symbols ↔ s.freqOf c ≠ 0 :=
  h.symbols.mem_iff.trans State.mem_presentInFreq

theorem State.CodedBy.nodup_codes (h : s.CodedBy t T) : (T.codes.map Prod.fst).Nodup := by
  rw [T.codes_map_fst]
  exact h.symbols.nodup_iff.mpr s.nodup_presentInFreq

theorem State.CodedBy.entry_eq (h : s.CodedBy t T) (c : Symbol) :
    t.entry c = romEntry T.codes c := by
  simp [State.entry, h.rom, romOf]

theorem State.CodedBy.entry_of_mem (h : s.CodedBy t T) (hp : (c, p) ∈ T.codes) :
    t.entry c = CodeEntry.ofString p := by
  rw [h.entry_eq, romEntry, lookup_eq_some_of_mem h.nodup_codes hp]

/-- An absent symbol gets the zero entry (41_tree_builder.md R151). -/
theorem State.CodedBy.entry_of_absent (h : s.CodedBy t T) (hc : s.freqOf c = 0) :
    t.entry c = CodeEntry.zero := by
  have hnone : T.codes.lookup c = none := List.lookup_eq_none_iff.mpr fun q hq => by
    rw [bne_iff_ne]
    rintro rfl
    have hmem : q.1 ∈ T.symbols := T.codes_map_fst ▸ List.mem_map_of_mem hq
    exact h.mem_symbols.mp hmem hc
  rw [h.entry_eq, romEntry, hnone]

/-- A present symbol has one of the codes. -/
theorem State.CodedBy.exists_code (h : s.CodedBy t T) (hc : s.freqOf c ≠ 0) :
    ∃ p, (c, p) ∈ T.codes := by
  have hmem : c ∈ T.codes.map Prod.fst := T.codes_map_fst ▸ h.mem_symbols.mpr hc
  obtain ⟨⟨d, p⟩, hp, rfl⟩ := List.mem_map.mp hmem
  exact ⟨p, hp⟩

theorem State.CodedBy.present_iff (h : s.CodedBy t T) :
    (t.entry c).present = true ↔ s.freqOf c ≠ 0 := by
  refine ⟨fun hpresent hc => ?_, fun hc => ?_⟩
  · rw [h.entry_of_absent hc] at hpresent
    exact absurd hpresent (by decide)
  · obtain ⟨p, hp⟩ := h.exists_code hc
    obtain ⟨hpos, hle⟩ := h.length_of_mem hp
    rw [h.entry_of_mem hp, CodeEntry.present_iff, CodeEntry.ofString_len hle]
    exact hpos

/-- The present entries of the table are the symbols counted. -/
theorem State.CodedBy.presentInRom_eq (h : s.CodedBy t T) : t.presentInRom = s.presentInFreq :=
  List.filter_congr fun c _ => Bool.eq_iff_iff.mpr (by rw [h.present_iff, bne_iff_ne])

/-- No code of a tree starts another, and each has an entry as R170 says (41_tree_builder.md R164 a, b, d). -/
theorem State.CodedBy.romIsPrefixCode (h : s.CodedBy t T) (hpos : 1 ≤ s.distinctCount) :
    t.romIsPrefixCode := by
  refine ⟨?some, fun c hc => ?wf, fun c d hne hc hd => ?free⟩
  case some =>
    obtain ⟨c, hc⟩ := List.exists_mem_of_length_pos hpos
    exact ⟨c, h.present_iff.mpr (State.mem_presentInFreq.mp hc)⟩
  case wf =>
    obtain ⟨p, hp⟩ := h.exists_code (h.present_iff.mp hc)
    rw [h.entry_of_mem hp]
    exact CodeEntry.ofString_wf (h.length_of_mem hp).2
  case free =>
    obtain ⟨p, hp⟩ := h.exists_code (h.present_iff.mp hc)
    obtain ⟨q, hq⟩ := h.exists_code (h.present_iff.mp hd)
    rw [h.entry_of_mem hp, h.entry_of_mem hq, CodeEntry.ofString_string (h.length_of_mem hp).2,
      CodeEntry.ofString_string (h.length_of_mem hq).2]
    have : Std.Symm Incomparable := ⟨fun _ _ hpq => hpq.symm⟩
    exact (T.codes_incomparable.forall hp hq fun heq => hne (congrArg Prod.fst heq)).1

/-- The Kraft sum over the table is that of the tree (41_tree_builder.md R164 c). -/
theorem State.CodedBy.kraftSum_eq (h : s.CodedBy t T) :
    (t.presentInRom.map fun c => 2 ^ (256 - (t.entry c).len.toNat)).sum = kraftSum 256 T.codes := by
  have hperm : t.presentInRom.Perm (T.codes.map Prod.fst) := by
    rw [h.presentInRom_eq, T.codes_map_fst]
    exact h.symbols.symm
  rw [(hperm.map _).sum_eq, List.map_map, kraftSum]
  refine congrArg List.sum (List.map_congr_left fun q hq => ?_)
  rw [Function.comp_apply, h.entry_of_mem hq, CodeEntry.ofString_len (h.length_of_mem hq).2]

end

/-! ### The code tree of BUILD -/

theorem CodeTree.codes_eq_paths {T : CodeTree} (h : T.symbols.length ≠ 1) : T.codes = T.paths := by
  cases T with
  | leaf c => exact absurd rfl h
  | node l r => rfl

/-- One symbol: the code tree is its leaf (41_tree_builder.md R154). -/
theorem State.codedBy_single {s : State} {c : Symbol} (hc : s.presentInFreq = [c]) :
    s.CodedBy s.built (.leaf c) where
  symbols := List.Perm.of_eq hc.symm
  rom := by
    show romOf (assignCodes (buildTree s.leaves).1 _ (buildTree s.leaves).2 []) = _
    rw [buildTree_of_single hc]
    rfl
  walks d p hp := by
    obtain ⟨rfl, rfl⟩ : d = c ∧ p = [false] := by simpa [CodeTree.codes] using hp
    have hpos : 1 ≤ s.distinctCount := (congrArg List.length hc).ge
    have hroot : s.built.root.toNat = 1 := by
      show (BitVec.ofNat 9 (buildTree s.leaves).2).toNat = 1
      rw [buildTree_of_single hc]
      rfl
    refine ⟨0, ?_⟩
    rw [hroot]
    simp [State.walk, State.built_nodeAt hpos, buildTree_of_single hc, entryAt, internalNode,
      leafNode, nodeNone]

/-- Two or more symbols: the code tree is the one tree the merges leave (41_tree_builder.md R156,
R159). -/
theorem State.exists_codedBy_merged {s : State} (h2 : 2 ≤ s.distinctCount) :
    ∃ T, s.CodedBy s.built T := by
  have hpos : 1 ≤ s.distinctCount := by omega
  have hle := s.distinctCount_le
  obtain ⟨f, hm⟩ := buildTree_of_two_le h2
  have hlen := hm.arena_length
  rw [s.leaves_length] at hlen
  have hroot : (BitVec.ofNat 9 (buildTree s.leaves).2).toNat = (buildTree s.leaves).2 :=
    Nat.mod_eq_of_lt (by have := hm.root_eq (by omega); omega)
  obtain ⟨tree, hstands, hsymbols⟩ := hm.forest
  obtain ⟨T, hT⟩ : ∃ T, T = tree (buildTree s.leaves).2 := ⟨_, rfl⟩
  replace hstands : T.StandsAt (buildTree s.leaves).1 (buildTree s.leaves).2 := by
    rw [hT]; exact hstands _ (List.mem_singleton_self _)
  replace hsymbols : T.symbols.Perm s.presentInFreq := by
    rw [hT]; simpa [s.leaves_map_sym] using hsymbols
  have hcount : T.symbols.length = s.distinctCount := hsymbols.length_eq
  have hcodes : T.codes = T.paths := CodeTree.codes_eq_paths (by omega)
  refine ⟨T, hsymbols, ?rom, fun c p hp => ?walks⟩
  case rom =>
    show romOf (assignCodes (buildTree s.leaves).1 _ (buildTree s.leaves).2 []) = _
    rw [assignCodes_of_standsAt hstands (by omega) (fun _ => by omega), hcodes]
    simp
  case walks =>
    have harena (y : Nat) (nd : Node) (hy : (buildTree s.leaves).1[y]? = some nd) :
        s.built.nodeAt y = nd := by
      rw [State.built_nodeAt hpos, entryAt_eq hy]
    show ∃ x, s.built.walk (BitVec.ofNat 9 (buildTree s.leaves).2).toNat p = some x ∧ _
    rw [hroot]
    exact State.walk_of_mem_paths harena hstands (hcodes ▸ hp)

theorem State.exists_codedBy {s : State} (h : 1 ≤ s.distinctCount) : ∃ T, s.CodedBy s.built T := by
  rcases s.single_or_two_le h with ⟨-, c, hc⟩ | h2
  · exact ⟨_, State.codedBy_single hc⟩
  · exact State.exists_codedBy_merged h2

/-! ### The statements -/

/-- Settles O36: the entry of a present symbol is its path in the code tree. -/
theorem buildCodesAreTreePaths : Obligations.BuildCodesAreTreePaths := by
  intro s t h ht c
  obtain rfl := eq_built_of_exec h ht
  obtain ⟨T, hT⟩ := State.exists_codedBy h
  refine ⟨hT.entry_of_absent, fun hc => ?_⟩
  obtain ⟨p, hp⟩ := hT.exists_code hc
  obtain ⟨hpos, hle⟩ := hT.length_of_mem hp
  rw [hT.entry_of_mem hp, CodeEntry.ofString_len hle, CodeEntry.ofString_string hle]
  exact ⟨hpos, CodeEntry.ofString_wf hle, hT.walks c p hp⟩

/-- Settles O37: no code of a tree starts another, and COMMIT_TABLE finds the counts that BUILD has
written. -/
theorem buildTableIsPrefixFree : Obligations.BuildTableIsPrefixFree := by
  intro s t h ht
  obtain rfl := eq_built_of_exec h ht
  obtain ⟨T, hT⟩ := State.exists_codedBy h
  have hprefix := hT.romIsPrefixCode h
  refine ⟨hprefix, ?_⟩
  rw [exec_commitTable_of_romIsPrefixCode hprefix, hT.presentInRom_eq]
  rfl

/-- Settles O38: the Kraft sum of the code tree. -/
theorem buildTableIsComplete : Obligations.BuildTableIsComplete := by
  intro s t h ht
  obtain rfl := eq_built_of_exec h ht
  obtain ⟨T, hT⟩ := State.exists_codedBy h
  have hcount := hT.symbols_length
  exact hT.kraftSum_eq.trans (hcount ▸ CodeTree.kraftSum_codes (hcount.trans_le s.distinctCount_le))

/-- With one non-zero counter its symbol is the only one present. -/
theorem State.presentInFreq_eq_singleton {s : State} {c : Symbol} (h : ∀ d, s.freqOf d ≠ 0 ↔ d = c) :
    s.presentInFreq = [c] := by
  refine List.perm_singleton.mp ((List.perm_ext_iff_of_nodup s.nodup_presentInFreq
    (List.nodup_singleton c)).mpr fun d => ?_)
  rw [State.mem_presentInFreq, h, List.mem_singleton]

/-- Settles O34: the tree of one leaf, and the code "0" of the lone leaf. -/
theorem buildSingleSymbol : Obligations.BuildSingleSymbol := by
  intro s c h
  have hc := State.presentInFreq_eq_singleton h
  have hpos : 1 ≤ s.distinctCount := (congrArg List.length hc).ge
  refine ⟨s.built, exec_build_eq_built hpos, ?root, ?nodeCount, ?symCount, ?leaf, ?parent, ?code⟩
  case root =>
    show BitVec.ofNat 9 (buildTree s.leaves).2 = 1
    rw [buildTree_of_single hc]
    rfl
  case nodeCount =>
    show BitVec.ofNat 10 (buildTree s.leaves).1.length = 2
    rw [buildTree_of_single hc]
    rfl
  case symCount =>
    show BitVec.ofNat 9 s.presentInFreq.length = 1
    rw [hc]
    rfl
  case leaf =>
    rw [State.built_nodeAt hpos, buildTree_of_single hc, ← leafNode_eq]
    rfl
  case parent =>
    rw [State.built_nodeAt hpos, buildTree_of_single hc, ← BitVec.ofNat_toNat]
    rfl
  case code => exact (State.codedBy_single hc).entry_of_mem (List.mem_singleton_self _)

end Sys2Proof.Machine
end

section
/-! # What COMMIT_TABLE reports

A table passes exactly when it has (a), (b), (c) of 42_code_rom.md R173: on well-formed entries the shift
and compare of reason 3 says that one code starts the other. The present symbols are listed in ascending
order, so the first entry that fails a check is the lowest one that fails it. -/

namespace Sys2Proof.Machine

/-! ### The checks on entries (42_code_rom.md R174) -/

/-- A present entry has stray bits exactly when it is not well-formed. -/
theorem CodeEntry.hasStrayBits_iff {e : CodeEntry} : e.hasStrayBits = true ↔ ¬ e.wf := by
  rw [CodeEntry.hasStrayBits, bne_iff_ne, ne_eq, Nat.shiftRight_eq_div_pow,
    Nat.div_eq_zero_iff_lt (Nat.two_pow_pos _)]

/-- The value of a well-formed entry is that of its code. -/
theorem CodeEntry.bitsVal_string {e : CodeEntry} (h : e.wf) : bitsVal e.string = e.value.toNat := by
  rw [CodeEntry.string, bitsVal_strOf, Nat.mod_eq_of_lt h]

/-- On well-formed entries the check of reason 3 fires exactly when one code starts the other. -/
theorem CodeEntry.prefixes_iff {e f : CodeEntry} (he : e.wf) (hf : f.wf) :
    e.prefixes f = true ↔ e.string <+: f.string := by
  refine ⟨CodeEntry.string_isPrefix_of_prefixes, fun hpre => ?_⟩
  have hle : e.len.toNat ≤ f.len.toNat := by
    simpa only [CodeEntry.string, strOf_length] using hpre.length_le
  have hstart := strOf_shiftRight_isPrefix hle f.value.toNat
  have hstring : strOf e.len.toNat (f.value.toNat >>> (f.len.toNat - e.len.toNat)) = e.string :=
    (List.prefix_of_prefix_length_le hstart hpre (by simp [CodeEntry.string])).eq_of_length
      (by simp [CodeEntry.string])
  have hfits : f.value.toNat >>> (f.len.toNat - e.len.toNat) < 2 ^ e.len.toNat := by
    rw [Nat.shiftRight_eq_div_pow, Nat.div_lt_iff_lt_mul (Nat.two_pow_pos _), ← Nat.pow_add,
      Nat.add_sub_cancel' hle]
    exact hf
  have hvalue : f.value.toNat >>> (f.len.toNat - e.len.toNat) = e.value.toNat := by
    rw [← CodeEntry.bitsVal_string he, ← hstring, bitsVal_strOf, Nat.mod_eq_of_lt hfits]
  simp [CodeEntry.prefixes, hle, hvalue]

/-! ### Ascending order -/

theorem allSymbols_pairwise_lt : allSymbols.Pairwise fun c d => c.toNat < d.toNat := by
  refine List.pairwise_map.mpr (List.pairwise_lt_range.imp_of_mem fun hm hn hlt => ?_)
  rw [List.mem_range] at hm hn
  simpa [Nat.mod_eq_of_lt hm, Nat.mod_eq_of_lt hn] using hlt

/-- The present symbols before a present symbol are lower ones. -/
theorem State.presentInRom_eq_append {s : State} {c : Symbol} (hc : (s.entry c).present = true) :
    ∃ before after, s.presentInRom = before ++ c :: after ∧
      ∀ d ∈ before, (s.entry d).present = true ∧ d.toNat < c.toNat := by
  obtain ⟨before, after, hsplit⟩ := List.append_of_mem (State.mem_presentInRom.mpr hc)
  have hsorted : s.presentInRom.Pairwise fun c d => c.toNat < d.toNat :=
    allSymbols_pairwise_lt.filter _
  rw [hsplit] at hsorted
  obtain ⟨-, -, hbefore⟩ := List.pairwise_append.mp hsorted
  refine ⟨before, after, hsplit, fun d hd => ⟨?_, hbefore d hd c List.mem_cons_self⟩⟩
  exact State.mem_presentInRom.mp (hsplit ▸ List.mem_append_left _ hd)

/-- A search through the present symbols finds the lowest that qualifies. -/
theorem State.find?_presentInRom {s : State} {p : Symbol → Bool} {c : Symbol}
    (hc : (s.entry c).present = true) (hp : p c = true)
    (hleast : ∀ d, (s.entry d).present = true → p d = true → c.toNat ≤ d.toNat) :
    s.presentInRom.find? p = some c := by
  obtain ⟨before, after, hsplit, hbefore⟩ := State.presentInRom_eq_append hc
  refine List.find?_eq_some_iff_append.mpr ⟨hp, before, after, hsplit, fun d hd => ?_⟩
  obtain ⟨hpresent, hlt⟩ := hbefore d hd
  rw [Bool.not_eq_true', Bool.eq_false_iff]
  exact fun hpd => absurd (hleast d hpresent hpd) (Nat.not_le.mpr hlt)

/-! ### The fault of a table -/

/-- No present entry. -/
theorem State.tableFault_eq_tableEmpty {s : State} (h : ∀ c, (s.entry c).present = false) :
    s.tableFault = some .tableEmpty := by
  have hnil : s.presentInRom = [] := List.filter_eq_nil_iff.mpr fun c _ => by simp [h c]
  simp [State.tableFault, hnil]

/-- The lowest present entry with stray bits. -/
theorem State.tableFault_eq_tableStrayBits {s : State} {c : Symbol}
    (hc : (s.entry c).present = true) (hstray : ¬ (s.entry c).wf)
    (hleast : ∀ d, d.toNat < c.toNat → (s.entry d).present = true → (s.entry d).wf) :
    s.tableFault = some (.tableStrayBits c) := by
  have hne : s.presentInRom ≠ [] := List.ne_nil_of_mem (State.mem_presentInRom.mpr hc)
  have hfind : (s.presentInRom.find? fun d => (s.entry d).hasStrayBits) = some c :=
    State.find?_presentInRom hc (CodeEntry.hasStrayBits_iff.mpr hstray) fun d hd hdstray =>
      Nat.not_lt.mp fun hlt => CodeEntry.hasStrayBits_iff.mp hdstray (hleast d hlt hd)
  simp only [State.tableFault, if_neg hne, hfind]

/-- Without stray bits the fault is the one the loop over pairs finds. -/
theorem State.tableFault_of_wf {s : State} (hne : s.presentInRom ≠ [])
    (hwf : ∀ c, (s.entry c).present = true → (s.entry c).wf) :
    s.tableFault = s.presentInRom.findSome? fun c =>
      (s.prefixedBy s.presentInRom c).map fun d => .tablePrefix c d := by
  have hstray : (s.presentInRom.find? fun c => (s.entry c).hasStrayBits) = none :=
    List.find?_eq_none.mpr fun c hc hstray =>
      CodeEntry.hasStrayBits_iff.mp hstray (hwf c (State.mem_presentInRom.mp hc))
  simp only [State.tableFault, if_neg hne, hstray]

/-- The first pair of which one code starts the other. -/
theorem State.tableFault_eq_tablePrefix {s : State} {c d : Symbol}
    (hwf : ∀ c, (s.entry c).present = true → (s.entry c).wf)
    (hc : (s.entry c).present = true) (hd : (s.entry d).present = true) (hcd : c ≠ d)
    (hpre : (s.entry c).string <+: (s.entry d).string)
    (hfirst : ∀ x y, (s.entry x).present = true → (s.entry y).present = true → x ≠ y →
      (s.entry x).string <+: (s.entry y).string →
      c.toNat < x.toNat ∨ (x = c ∧ d.toNat ≤ y.toNat)) :
    s.tableFault = some (.tablePrefix c d) := by
  have hfires (x y : Symbol) (hx : (s.entry x).present = true) (hy : (s.entry y).present = true) :
      (y != x && (s.entry x).prefixes (s.entry y)) = true ↔
        x ≠ y ∧ (s.entry x).string <+: (s.entry y).string := by
    rw [Bool.and_eq_true, bne_iff_ne, ne_comm, CodeEntry.prefixes_iff (hwf x hx) (hwf y hy)]
  have hinner : s.prefixedBy s.presentInRom c = some d := by
    refine State.find?_presentInRom hd ((hfires c d hc hd).mpr ⟨hcd, hpre⟩) fun y hy hcy => ?_
    obtain ⟨hne, hcypre⟩ := (hfires c y hc hy).mp hcy
    rcases hfirst c y hc hy hne hcypre with hlt | ⟨-, hle⟩
    · exact absurd hlt (Nat.lt_irrefl _)
    · exact hle
  obtain ⟨before, after, hsplit, hbefore⟩ := State.presentInRom_eq_append hc
  have hlower (x : Symbol) (hx : x ∈ before) : s.prefixedBy s.presentInRom x = none := by
    obtain ⟨hxpresent, hlt⟩ := hbefore x hx
    refine List.find?_eq_none.mpr fun y hy hxy => ?_
    have hypresent := State.mem_presentInRom.mp hy
    obtain ⟨hne, hxypre⟩ := (hfires x y hxpresent hypresent).mp hxy
    rcases hfirst x y hxpresent hypresent hne hxypre with hgt | ⟨rfl, -⟩ <;> omega
  rw [State.tableFault_of_wf (List.ne_nil_of_mem (State.mem_presentInRom.mpr hc)) hwf]
  exact List.findSome?_eq_some_iff.mpr ⟨before, c, after, hsplit, by rw [hinner, Option.map_some],
    fun x hx => by rw [hlower x hx, Option.map_none]⟩

/-- A table that passes every check has (a), (b), (c) of 42_code_rom.md R173. -/
theorem State.romIsPrefixCode_of_tableFault {s : State} (h : s.tableFault = none) :
    s.romIsPrefixCode := by
  have hsome : ∃ c, (s.entry c).present = true := by
    by_contra hnone
    rw [State.tableFault_eq_tableEmpty fun c => Bool.eq_false_iff.mpr fun hc => hnone ⟨c, hc⟩] at h
    cases h
  have hne : s.presentInRom ≠ [] := by
    obtain ⟨c, hc⟩ := hsome
    exact List.ne_nil_of_mem (State.mem_presentInRom.mpr hc)
  have hwf (c : Symbol) (hc : (s.entry c).present = true) : (s.entry c).wf := by
    by_contra hstray
    simp only [State.tableFault, if_neg hne] at h
    split at h
    · cases h
    next hfind =>
      exact List.find?_eq_none.mp hfind c (State.mem_presentInRom.mpr hc)
        (CodeEntry.hasStrayBits_iff.mpr hstray)
  refine ⟨hsome, hwf, fun c d hcd hc hd hpre => ?_⟩
  rw [State.tableFault_of_wf hne hwf, List.findSome?_eq_none_iff] at h
  have hinner := Option.map_eq_none_iff.mp (h c (State.mem_presentInRom.mpr hc))
  exact List.find?_eq_none.mp hinner d (State.mem_presentInRom.mpr hd)
    (by simp [hcd.symm, (CodeEntry.prefixes_iff (hwf c hc) (hwf d hd)).mpr hpre])

/-- Every fault of a table is a `TABLE_FORMAT` (60_exceptions.md R250). -/
theorem State.code_of_tableFault {s : State} {e : CmdError} (h : s.tableFault = some e) :
    e.code = 8 := by
  unfold State.tableFault at h
  dsimp only at h
  split at h
  · cases h; rfl
  · split at h
    · cases h; rfl
    · obtain ⟨c, -, hc⟩ := List.exists_of_findSome?_eq_some h
      obtain ⟨d, -, rfl⟩ := Option.map_eq_some_iff.mp hc
      rfl

/-! ### The count -/

theorem State.presentInRom_length (s : State) : s.presentInRom.length = s.presentCount := rfl

/-- `SYM_COUNT` has room for the count (10_state.md R40). -/
theorem State.presentCount_toNat (s : State) :
    (BitVec.ofNat 9 s.presentCount).toNat = s.presentCount := by
  have hle : s.presentCount ≤ 256 :=
    (List.length_filter_le _ _).trans_eq (by simp [allSymbols])
  exact Nat.mod_eq_of_lt (by omega)

/-! ### The command -/

theorem exec_commitTable (s : State) : exec .commitTable s = s.finish (commitRule s) := rfl

/-- COMMIT_TABLE ends with the fault of the table, and the state is otherwise the one before it. -/
theorem exec_commitTable_of_tableFault {s : State} {e : CmdError} (h : s.tableFault = some e) :
    exec .commitTable s = .next (s.ended e.code e.info0 e.info1) := by
  rw [exec_commitTable, commitRule, h]
  rfl

/-- The detail of reason 3 holds the two symbols in its two halves (42_code_rom.md R174). -/
theorem CmdError.tablePrefix_info1 (c d : Symbol) :
    (CmdError.tablePrefix c d).info1 = BitVec.ofNat 32 (c.toNat + 65536 * d.toNat) := by
  have hc := c.isLt
  have hd := d.isLt
  apply BitVec.eq_of_toNat_eq
  have hshift : d.toNat <<< 16 % 2 ^ 32 = 2 ^ 16 * d.toNat := by
    rw [Nat.shiftLeft_eq]
    omega
  simp only [CmdError.info1, BitVec.toNat_or, BitVec.toNat_shiftLeft, BitVec.toNat_setWidth,
    BitVec.toNat_ofNat]
  rw [Nat.mod_eq_of_lt (by omega), Nat.mod_eq_of_lt (a := d.toNat) (by omega), hshift, Nat.lor_comm,
    ← Nat.two_pow_add_eq_or_of_lt (by omega)]
  omega

/-- Settles O39: the table passes when it has (a), (b), (c), and a table that passes has them. -/
theorem commitAcceptsExactlyPrefixCodes : Obligations.CommitAcceptsExactlyPrefixCodes := by
  intro s
  refine ⟨exec_commitTable_of_romIsPrefixCode, fun hnot => ?_⟩
  cases hfault : s.tableFault with
  | none => exact absurd (State.romIsPrefixCode_of_tableFault hfault) hnot
  | some e =>
    exact ⟨e.info0, e.info1, State.code_of_tableFault hfault ▸ exec_commitTable_of_tableFault hfault⟩

/-- Settles O40: the fault of the table in each case, with its details. -/
theorem commitReportsTheFirstFailure : Obligations.CommitReportsTheFirstFailure := by
  intro s
  refine ⟨fun hnone => ?empty, fun c hc hstray hleast => ?stray,
    fun hwf c d hc hd hcd hpre hfirst => ?clash⟩
  case empty => exact exec_commitTable_of_tableFault (State.tableFault_eq_tableEmpty hnone)
  case stray =>
    exact exec_commitTable_of_tableFault (State.tableFault_eq_tableStrayBits hc hstray hleast)
  case clash =>
    rw [exec_commitTable_of_tableFault
      (State.tableFault_eq_tablePrefix hwf hc hd hcd hpre hfirst), CmdError.tablePrefix_info1]
    rfl

/-- Settles O41: a committed table passes, and the count written is the one that stands there. -/
theorem commitOfACommittedTableSucceeds : Obligations.CommitOfACommittedTableSucceeds := by
  intro s hs hvalid
  have hcount : BitVec.ofNat 9 s.presentInRom.length = s.symCount := by
    rw [s.presentInRom_length, ← hs.symCount hvalid, BitVec.ofNat_toNat, BitVec.setWidth_eq]
  rw [exec_commitTable_of_romIsPrefixCode (hs.prefixCode hvalid), hcount]
  simp [State.complete, State.ended, hvalid]

end Sys2Proof.Machine
end

section
/-! # Every step keeps CODE_VALID honest

`CommitOk` speaks of `CODE_VALID`, the code ROM and `SYM_COUNT` only. Most events leave these three alone;
BUILD writes a table with (a), (b), (c), COMMIT_TABLE checks for them, and a code-ROM window write and a
reset withdraw the commit (42_code_rom.md R172, R173). -/

namespace Sys2Proof.Machine

/-! ### The committed table of a state -/

/-- The fields that describe a committed table. -/
structure CommittedTable where
  /-- `STATUS.CODE_VALID` (10_state.md R35) -/
  codeValid : Bool
  /-- the code ROM (10_state.md R55) -/
  rom : Vector CodeEntry 256
  /-- `SYM_COUNT` (10_state.md R40) -/
  symCount : BitVec 9

/-- The fields of a state that describe its committed table. -/
def State.table (s : State) : CommittedTable :=
  { codeValid := s.codeValid, rom := s.rom, symCount := s.symCount }

@[simp] theorem State.complete_table (s : State) : s.complete.table = s.table := rfl
@[simp] theorem State.raise_table (s : State) (e : CmdError) : (s.raise e).table = s.table := rfl
@[simp] theorem State.flagHostErr_table (s : State) : s.flagHostErr.table = s.table := rfl
@[simp] theorem State.advanceMemAddr_table (s : State) : s.advanceMemAddr.table = s.table := rfl

/-- No register write reaches the table (20_memory.md R83). -/
@[simp] theorem State.writeReg_table (s : State) (data : Word) (r : Reg) :
    (s.writeReg data r).table = s.table := by
  cases r <;> rfl

/-- No command but BUILD and COMMIT_TABLE has the table in its row (30_encoding.md R121). -/
theorem State.withRow_table {i : Instr} (hbuild : i ≠ .build) (hcommit : i ≠ .commitTable)
    (s s' : State) : (s.withRow i s').table = s.table := by
  cases i with
  | build => exact absurd rfl hbuild
  | commitTable => exact absurd rfl hcommit
  | nop | freq | encode | decode | embed | extract => rfl

/-! ### What keeps `CODE_VALID` honest -/

/-- An event that leaves the table alone. -/
theorem State.CommitOk.of_table_eq {s t : State} (hs : s.CommitOk) (h : t.table = s.table) :
    t.CommitOk := by
  obtain ⟨hvalid, hrom, hcount⟩ := CommittedTable.mk.inj h
  have hentry : t.entry = s.entry := by
    funext c
    rw [State.entry, State.entry, getElem_congr_coll hrom]
  constructor
  · intro htv
    rw [State.romIsPrefixCode, hentry]
    exact hs.prefixCode (hvalid ▸ htv)
  · intro htv
    rw [hcount, State.presentCount, hentry]
    exact hs.symCount (hvalid ▸ htv)

/-- An event that withdraws the commit. -/
theorem State.commitOk_of_not_codeValid {s : State} (h : s.codeValid = false) : s.CommitOk :=
  ⟨fun hvalid => absurd (h.symm.trans hvalid) Bool.false_ne_true,
    fun hvalid => absurd (h.symm.trans hvalid) Bool.false_ne_true⟩

/-! ### Commands -/

/-- BUILD writes a table with (a), (b), (c) of R173 and the number of its entries
(41_tree_builder.md R161, R164). -/
theorem State.built_commitOk {s : State} (h : 1 ≤ s.distinctCount) : s.built.CommitOk := by
  obtain ⟨T, hT⟩ := State.exists_codedBy h
  refine ⟨fun _ => hT.romIsPrefixCode h, fun _ => ?_⟩
  rw [s.built_symCount, ← State.presentInRom_length, hT.presentInRom_eq, State.presentInFreq_length]

theorem exec_build_commitOk {s t : State} (hs : s.CommitOk) (h : exec .build s = .next t) :
    t.CommitOk := by
  rcases buildRule_eq s with ⟨-, hr⟩ | ⟨hne, -⟩
  · rw [exec_build, hr, State.finish_raised] at h; cases h
    exact hs.of_table_eq (s.raise_table _)
  · have hpos : 1 ≤ s.distinctCount := List.length_pos_of_ne_nil hne
    exact eq_built_of_exec hpos h ▸ State.built_commitOk hpos

/-- COMMIT_TABLE sets `CODE_VALID` for a table with (a), (b), (c) only, and counts its entries
(42_code_rom.md R175). -/
theorem exec_commitTable_commitOk {s t : State} (hs : s.CommitOk)
    (h : exec .commitTable s = .next t) : t.CommitOk := by
  cases hfault : s.tableFault with
  | none =>
    have hprefix := State.romIsPrefixCode_of_tableFault hfault
    rw [exec_commitTable_of_romIsPrefixCode hprefix] at h
    cases h
    exact ⟨fun _ => hprefix, fun _ => s.presentCount_toNat⟩
  | some e =>
    rw [exec_commitTable_of_tableFault hfault] at h
    cases h
    exact hs.of_table_eq rfl

/-- Every command keeps `CODE_VALID` honest (42_code_rom.md R172, R173). -/
theorem exec_commitOk {i : Instr} {s t : State} (hs : s.CommitOk) (h : exec i s = .next t) :
    t.CommitOk := by
  by_cases hbuild : i = .build
  · exact exec_build_commitOk hs (hbuild ▸ h)
  by_cases hcommit : i = .commitTable
  · exact exec_commitTable_commitOk hs (hcommit ▸ h)
  rcases exec_next_withRow h with ⟨s', rfl⟩ | ⟨e, rfl⟩
  · exact hs.of_table_eq ((State.complete_table _).trans (State.withRow_table hbuild hcommit s s'))
  · exact hs.of_table_eq (s.raise_table e)

/-- The completion of a word, legal or not (46_control.md R236, R238). -/
theorem completeWord_commitOk {w : Word} {s t : State} (hs : s.CommitOk)
    (h : completeWord w s = .next t) : t.CommitOk := by
  rcases completeWord_cases w s with ⟨i, -, hc⟩ | ⟨r, -, hc⟩
  · exact exec_commitOk hs (hc ▸ h)
  · rw [hc] at h; cases h
    exact hs.of_table_eq (s.raise_table _)

/-! ### Host transactions -/

/-- A window write leaves the table alone, but for one of the code ROM, which withdraws the commit
(42_code_rom.md R172). -/
theorem State.windowWrite_commitOk {s : State} (win : Window) (w : Nat) (data : Word)
    (hs : s.CommitOk) : (s.windowWrite win w data).CommitOk := by
  cases win with
  | codeRom => exact State.commitOk_of_not_codeValid rfl
  | bits => exact hs.of_table_eq (by simp only [State.windowWrite, State.table])
  | nodes => exact hs.of_table_eq s.flagHostErr_table
  | text | pixel | freqTab => exact hs.of_table_eq rfl

/-- A performed write of any offset (20_memory.md R83, R86, R87). -/
theorem performWrite_commitOk {s : State} (off : BitVec 12) (data : Word) (hs : s.CommitOk) :
    (performWrite off data s).CommitOk := by
  unfold performWrite
  split
  · unfold writeMemData
    cases s.windowInRange with
    | none => exact hs.of_table_eq (by simp)
    | some win =>
      exact (State.windowWrite_commitOk win _ data hs).of_table_eq (State.advanceMemAddr_table _)
  · exact hs.of_table_eq (s.writeReg_table data _)
  · exact hs

/-- Only a performed write reaches the table (20_memory.md R82, R83). -/
theorem hostTransaction_commitOk {x : HostTxn} {s t : State} (hs : s.CommitOk)
    (h : hostTransaction x s = .next t) : t.CommitOk := by
  rcases hostTransaction_frame h with ⟨v, e, a, n, rfl⟩ | ⟨off, be, data, -, rfl⟩
  · exact hs.of_table_eq rfl
  · exact performWrite_commitOk off data hs

/-! ### The reset port -/

/-- A reset withdraws the commit, and a release leaves it alone (70_reset_and_hazards.md R280). -/
theorem rstTurn_commitOk {s : State} (level : Bool) (hs : s.CommitOk) :
    (rstTurn level s).CommitOk := by
  cases level with
  | false => exact hs.of_table_eq rfl
  | true => exact State.commitOk_of_not_codeValid s.applyReset_codeValid

/-! ### Every step -/

/-- Settles O58: each kind of turn keeps `CODE_VALID` honest. -/
theorem stepKeepsCommittedTable : Obligations.StepKeepsCommittedTable := fun _ _ =>
  step_keeps (fun _ _ hs => hs.of_table_eq rfl)
    (fun _ _ _ _ _ => completeWord_commitOk)
    (fun _ _ _ _ => hostTransaction_commitOk)
    (fun level _ => rstTurn_commitOk level)

end Sys2Proof.Machine
end

section
/-! # ENCODE

ENCODE walks the text from position 0. A symbol with a code puts it before the output of the rest, and
the first symbol without one ends the walk, so on a text of known symbols the output is the
concatenation of the codes (43_encoder.md R190 to R196). -/

namespace Sys2Proof.Machine

/-! ### What a memory holds -/

/-- A memory holds a list when it holds the first value and, one address further, the rest. -/
theorem Memory.holds_cons {α : Type} {m : Memory α} {a : Nat} {v : α} {vs : List α} :
    Memory.holds m a (v :: vs) ↔ Memory.read m a = some v ∧ Memory.holds m (a + 1) vs := by
  constructor
  · refine fun h => ⟨h 0 (by simp), fun i hi => ?_⟩
    rw [show a + 1 + i = a + (i + 1) by omega]
    exact h (i + 1) (by simpa using hi)
  · rintro ⟨hfirst, hrest⟩ i hi
    cases i with
    | zero => exact hfirst
    | succ i =>
      rw [show a + (i + 1) = a + 1 + i by omega]
      exact hrest i (by simpa using hi)

/-- A list just written is what the memory holds. -/
theorem Memory.holds_writeAll {α : Type} (m : Memory α) (a : Nat) (vs : List α) :
    Memory.holds (Memory.writeAll m a vs) a vs := by
  intro i hi
  rw [Memory.read_writeAll, if_pos ⟨by omega, by omega⟩, Nat.add_sub_cancel_left,
    List.getElem?_eq_getElem hi]

/-! ### Codes of symbols and of texts (42_code_rom.md R177) -/

/-- A present symbol of a committed table has its entry's string as its code. -/
theorem State.codeOf_eq_some {s : State} {c : Symbol} (hvalid : s.codeValid = true)
    (hpresent : (s.entry c).present = true) : s.codeOf c = some (s.entry c).string := by
  simp [State.codeOf, hvalid, hpresent]

/-- A symbol has no code when no table is committed or its entry is absent. -/
theorem State.codeOf_eq_none_iff {s : State} {c : Symbol} :
    s.codeOf c = none ↔ s.codeValid = false ∨ (s.entry c).present = false := by
  rw [State.codeOf, ite_eq_right_iff]
  cases s.codeValid <;> simp

theorem State.codesOf_cons (s : State) (c : Symbol) (txt : List Symbol) :
    s.codesOf (c :: txt) = (s.entry c).string ++ s.codesOf txt := rfl

/-- The output length is the sum of the code lengths (43_encoder.md R194). -/
theorem State.codesOf_length (s : State) (txt : List Symbol) :
    (s.codesOf txt).length = (txt.map fun c => (s.entry c).len.toNat).sum := by
  simp [State.codesOf, List.length_flatMap, CodeEntry.string]

/-- A code has at most 255 bits (42_code_rom.md R170). -/
theorem State.codesOf_length_le (s : State) (txt : List Symbol) :
    (s.codesOf txt).length ≤ 255 * txt.length := by
  induction txt with
  | nil => simp [State.codesOf]
  | cons c txt ih =>
    have hlen := (s.entry c).len.isLt
    rw [State.codesOf_cons, List.length_append, CodeEntry.string, strOf_length, List.length_cons]
    omega

/-! ### The walk over the text (43_encoder.md R192, R196) -/

/-- A symbol with a code puts it before the output of the rest. -/
theorem State.encodeFrom_succ {s : State} {i n : Nat} {c : Symbol} {code : Bitstring}
    (hread : Memory.read s.text i = some c) (hcode : s.codeOf c = some code) :
    s.encodeFrom i (n + 1) = (s.encodeFrom (i + 1) n).map (code ++ ·) := by
  simp only [State.encodeFrom, hread, hcode]
  cases s.encodeFrom (i + 1) n <;> rfl

/-- A text whose symbols all have codes gives their concatenation. -/
theorem State.encodeFrom_eq_codesOf {s : State} {i : Nat} {txt : List Symbol}
    (hholds : Memory.holds s.text i txt)
    (hcodes : ∀ c ∈ txt, s.codeOf c = some (s.entry c).string) :
    s.encodeFrom i txt.length = .ok (s.codesOf txt) := by
  induction txt generalizing i with
  | nil => rfl
  | cons c txt ih =>
    obtain ⟨hread, hrest⟩ := Memory.holds_cons.mp hholds
    obtain ⟨hcode, hcodes⟩ := List.forall_mem_cons.mp hcodes
    rw [List.length_cons, State.encodeFrom_succ hread hcode, ih hrest hcodes, State.codesOf_cons]
    rfl

/-- The first symbol without a code ends the walk, whatever stands after it. -/
theorem State.encodeFrom_eq_unknownSymbol {s : State} {i k n : Nat} {c : Symbol} (hk : k < n)
    (hread : Memory.read s.text (i + k) = some c) (hnone : s.codeOf c = none)
    (hbefore : ∀ j, j < k → ∃ d code, Memory.read s.text (i + j) = some d ∧ s.codeOf d = some code) :
    s.encodeFrom i n = .error (.raised (.unknownSymbol c (i + k))) := by
  induction k generalizing i n with
  | zero =>
    obtain ⟨n, rfl⟩ := Nat.exists_eq_add_one.mpr hk
    rw [Nat.add_zero] at hread
    simp [State.encodeFrom, hread, hnone]
  | succ k ih =>
    obtain ⟨n, rfl⟩ := Nat.exists_eq_add_one.mpr (Nat.zero_lt_of_lt hk)
    obtain ⟨d, code, hd, hcode⟩ := hbefore 0 k.succ_pos
    have hshift (j : Nat) : i + (j + 1) = i + 1 + j := by omega
    rw [hshift k] at hread
    have hrest := ih (Nat.lt_of_succ_lt_succ hk) hread fun j hj =>
      hshift j ▸ hbefore (j + 1) (Nat.succ_lt_succ hj)
    rw [State.encodeFrom_succ (i := i) hd hcode, hrest, hshift k]
    rfl

/-! ### The command -/

theorem exec_encode (s : State) : exec .encode s = s.finish (encodeRule s) := rfl

/-- ENCODE does not succeed: a text beyond the memory, then what ends the walk, then an output too long
(43_encoder.md R195). -/
theorem encodeRule_error_iff {s : State} {h : Halt} :
    encodeRule s = .error h ↔
      (s.cfg.maxTextLen < s.textLen.toNat ∧
        h = .raised (.parameter s.textLen.toNat s.cfg.maxTextLen)) ∨
      (s.textLen.toNat ≤ s.cfg.maxTextLen ∧
        (s.encodeFrom 0 s.textLen.toNat = .error h ∨
          ∃ out, s.encodeFrom 0 s.textLen.toNat = .ok out ∧ maxBits < out.length ∧
            h = .raised (.capacity out.length maxBits))) := by
  unfold encodeRule
  by_cases hlong : s.cfg.maxTextLen < s.textLen.toNat
  · simp [hlong, Nat.not_le.mpr hlong, eq_comm]
  · cases s.encodeFrom 0 s.textLen.toNat with
    | error h' => simp [hlong, Nat.not_lt.mp hlong]
    | ok out =>
      by_cases hout : maxBits < out.length <;> simp [hlong, Nat.not_lt.mp hlong, hout, eq_comm]

/-- ENCODE ends with the error its rule raises, and the state is otherwise the one before it. -/
theorem exec_encode_of_raised {s : State} {e : CmdError} (h : encodeRule s = .error (.raised e)) :
    exec .encode s = .next (s.ended e.code e.info0 e.info1) := by
  rw [exec_encode, h, State.finish_raised]
  rfl

/-- The output of the walk over the text operand. -/
theorem State.encodeFrom_of_textIs {s : State} {txt : List Symbol} (htext : s.textIs txt)
    (hvalid : txt ≠ [] → s.codeValid = true) (hpresent : s.allPresent txt) :
    s.encodeFrom 0 s.textLen.toNat = .ok (s.codesOf txt) := by
  obtain ⟨hlen, hholds⟩ := htext
  rw [← hlen]
  exact State.encodeFrom_eq_codesOf hholds fun c hc =>
    State.codeOf_eq_some (hvalid (List.ne_nil_of_mem hc)) (hpresent c hc)

/-- Settles O42: the output is the concatenation of the codes, and the write of a bitstring that fits
24 bits of length reaches no bit beyond it. -/
theorem encodeConcatenatesTheCodes : Obligations.EncodeConcatenatesTheCodes := by
  intro s txt htext hle hvalid hpresent hfits
  have hrule : encodeRule s = .ok (s.writeBitstring (s.codesOf txt)) :=
    encodeRule_ok_iff.mpr ⟨htext.1 ▸ hle, _, State.encodeFrom_of_textIs htext hvalid hpresent,
      hfits, rfl⟩
  refine ⟨(s.writeBitstring (s.codesOf txt)).complete, ?next, rfl, ?length,
    Memory.holds_writeAll s.bits 0 _, fun a ha => ?beyond⟩
  case next => rw [exec_encode, hrule, State.finish_ok]
  case length => exact Nat.mod_eq_of_lt (hfits.trans_lt (by decide))
  case beyond => exact (Memory.read_writeAll ..).trans (if_neg (by omega))

/-- Settles O43: the check of the length comes before the walk, and the walk ends at the first symbol
without a code. -/
theorem encodeRaisesParameterOrUnknownSymbol :
    Obligations.EncodeRaisesParameterOrUnknownSymbol := by
  refine fun s => ⟨fun hlong => ?parameter, fun hle i c hi hread hnone hbefore => ?unknown⟩
  case parameter =>
    have hraise := encodeRule_error_iff.mpr (.inl ⟨hlong, rfl⟩)
    rw [exec_encode_of_raised hraise, CmdError.info0, BitVec.ofNat_toNat]
    rfl
  case unknown =>
    have hwalk : s.encodeFrom 0 s.textLen.toNat = .error (.raised (.unknownSymbol c (0 + i))) := by
      refine State.encodeFrom_eq_unknownSymbol hi ?_ (State.codeOf_eq_none_iff.mpr hnone) fun j hj => ?_
      · rwa [Nat.zero_add]
      · obtain ⟨d, hd, hvalid, hpresent⟩ := hbefore j hj
        exact ⟨d, _, by rwa [Nat.zero_add], State.codeOf_eq_some hvalid hpresent⟩
    rw [Nat.zero_add] at hwalk
    exact exec_encode_of_raised (encodeRule_error_iff.mpr (.inr ⟨hle, .inl hwalk⟩))

/-- Settles O44: the exact length of the output fits `ERR_INFO0`, since a text has fewer than `2^24`
symbols and a code at most 255 bits. -/
theorem encodeRaisesCapacity : Obligations.EncodeRaisesCapacity := by
  intro s txt htext hle hvalid hpresent hlong
  rw [← State.codesOf_length] at hlong ⊢
  refine ⟨BitVec.ofNat 32 (s.codesOf txt).length, ?exact, ?raise⟩
  case exact =>
    have hsymbols : txt.length < 2 ^ 24 := htext.1 ▸ s.textLen.isLt
    have hbits := s.codesOf_length_le txt
    exact Nat.mod_eq_of_lt (by omega)
  case raise =>
    have hwalk := State.encodeFrom_of_textIs htext (fun _ => hvalid) hpresent
    exact exec_encode_of_raised
      (encodeRule_error_iff.mpr (.inr ⟨htext.1 ▸ hle, .inr ⟨_, hwalk, hlong, rfl⟩⟩))

end Sys2Proof.Machine
end

section
/-! # DECODE

The scan splits every bitstring into the codes of a text and a fragment in which nothing matches. No code
of a committed table starts another, so a bitstring has only one such split, and the scan of a bitstring
with a known split ends with that text and that fragment (44_decoder.md R203 to R209). -/

namespace Sys2Proof.Machine

/-! ### Matches (42_code_rom.md R179, 44_decoder.md R203) -/

@[simp] theorem CodeEntry.string_length (e : CodeEntry) : e.string.length = e.len.toNat :=
  strOf_length _ _

/-- A present entry has a non-empty code (42_code_rom.md R171). -/
theorem CodeEntry.string_ne_nil {e : CodeEntry} (h : e.present = true) : e.string ≠ [] := by
  rw [← List.length_pos_iff, CodeEntry.string_length]
  exact CodeEntry.present_iff.mp h

/-- A well-formed entry matches its own code and no other bitstring. -/
theorem CodeEntry.isCode_iff {e : CodeEntry} (he : e.wf) {p : Bitstring} :
    e.isCode p = true ↔ e.present = true ∧ e.string = p := by
  have hvalue : e.string = p ↔ e.len.toNat = p.length ∧ e.value.toNat = bitsVal p := by
    constructor
    · rintro rfl
      exact ⟨e.string_length.symm, (CodeEntry.bitsVal_string he).symm⟩
    · rintro ⟨hlen, hval⟩
      rw [CodeEntry.string, hlen, hval, strOf_bitsVal]
  rw [hvalue]
  simp [CodeEntry.isCode, and_assoc]

section
variable {s : State} {p : Bitstring} {c d : Symbol}

/-- The code of one symbol only starts with the code of another when the two are the same symbol
(42_code_rom.md R173 (c)). -/
theorem State.romIsPrefixCode.eq_of_isPrefix (h : s.romIsPrefixCode)
    (hc : (s.entry c).present = true) (hd : (s.entry d).present = true)
    (hpre : (s.entry c).string <+: (s.entry d).string) : c = d := by
  obtain ⟨-, -, hfree⟩ := h
  by_contra hne
  exact hfree c d hne hc hd hpre

/-- An entry of a table with (a), (b), (c) of R173 matches the bitstring that is its code. -/
theorem State.romIsPrefixCode.isCode_iff (h : s.romIsPrefixCode) :
    (s.entry c).isCode p = true ↔ (s.entry c).present = true ∧ (s.entry c).string = p := by
  obtain ⟨-, hwf, -⟩ := h
  by_cases hc : (s.entry c).present = true
  · exact CodeEntry.isCode_iff (hwf c hc)
  · simp [CodeEntry.isCode, hc]

/-- A search that answers has found the code of the symbol. -/
theorem State.code_of_symbolOf (h : s.romIsPrefixCode) (hc : s.symbolOf p = some c) :
    (s.entry c).present = true ∧ (s.entry c).string = p := by
  unfold State.symbolOf at hc
  split at hc
  · exact h.isCode_iff.mp (List.find?_some (p := fun x => (s.entry x).isCode p) hc)
  · cases hc

/-- A search that answers nothing leaves no symbol with that code. -/
theorem State.no_code_of_symbolOf (hvalid : s.codeValid = true) (h : s.romIsPrefixCode)
    (hnone : s.symbolOf p = none) (hc : (s.entry c).present = true) : (s.entry c).string ≠ p := by
  rintro rfl
  have hrange : 1 ≤ (s.entry c).string.length ∧ (s.entry c).string.length ≤ maxCodeLen := by
    rw [CodeEntry.string_length]
    exact ⟨CodeEntry.present_iff.mp hc, Nat.le_of_lt_succ (s.entry c).len.isLt⟩
  simp only [State.symbolOf, hvalid, hrange, and_self, decide_true, Bool.and_self, if_true] at hnone
  exact List.find?_eq_none.mp hnone c (mem_allSymbols c) (h.isCode_iff.mpr ⟨hc, rfl⟩)

end

/-! ### The split of a bitstring (44_decoder.md R203 to R205) -/

/-- The bitstring is the codes of the text followed by a fragment in which nothing matches. -/
structure State.Parses (s : State) (input : Bitstring) (txt : List Symbol) (frag : Bitstring) :
    Prop where
  present : s.allPresent txt
  noMatch : s.noCodeIn frag
  split : input = s.codesOf txt ++ frag

section
variable {s : State} {input frag frag' : Bitstring} {txt txt' : List Symbol} {b : Bool} {c : Symbol}

theorem State.noCodeIn_nil (s : State) : s.noCodeIn [] :=
  fun _ hne hpre => absurd (List.prefix_nil.mp hpre) hne

/-- One more bit can complete only one more code: the whole fragment. -/
theorem State.noCodeIn_concat (h : s.noCodeIn frag)
    (hnew : ∀ c, (s.entry c).present = true → (s.entry c).string ≠ frag ++ [b]) :
    s.noCodeIn (frag ++ [b]) := by
  intro p hne hpre
  rcases List.prefix_concat_iff.mp hpre with rfl | hpre
  · exact hnew
  · exact h p hne hpre

/-- The code of a present symbol does not stand at the front of a fragment without a match. -/
theorem State.noCodeIn.not_code_append (h : s.noCodeIn frag) (hc : (s.entry c).present = true)
    (rest : Bitstring) : frag ≠ (s.entry c).string ++ rest := by
  rintro rfl
  exact h _ (CodeEntry.string_ne_nil hc) (List.prefix_append _ _) c hc rfl

/-- A text has at most as many symbols as its codes have bits. -/
theorem State.length_le_codesOf_length (h : s.allPresent txt) :
    txt.length ≤ (s.codesOf txt).length := by
  rw [State.codesOf_length, ← List.length_map (f := fun c => (s.entry c).len.toNat)]
  refine List.length_le_sum_of_one_le _ fun n hn => ?_
  obtain ⟨c, hc, rfl⟩ := List.mem_map.mp hn
  exact CodeEntry.present_iff.mp (h c hc)

/-- Under a table with (a), (b), (c) of R173 a bitstring has one split: of two codes at its
front one starts the other, so they are the same. -/
theorem State.Parses.unique (hprefix : s.romIsPrefixCode) (h : s.Parses input txt frag)
    (h' : s.Parses input txt' frag') : txt = txt' ∧ frag = frag' := by
  obtain ⟨hpresent, hfrag, rfl⟩ := h
  obtain ⟨hpresent', hfrag', hsplit⟩ := h'
  induction txt generalizing txt' with
  | nil =>
    cases txt' with
    | nil => exact ⟨rfl, hsplit⟩
    | cons d txt' =>
      rw [State.codesOf_cons, List.append_assoc] at hsplit
      exact absurd hsplit (hfrag.not_code_append (hpresent' d List.mem_cons_self) _)
  | cons c txt ih =>
    obtain ⟨hc, hpresent⟩ := List.forall_mem_cons.mp hpresent
    rw [State.codesOf_cons, List.append_assoc] at hsplit
    cases txt' with
    | nil => exact absurd hsplit.symm (hfrag'.not_code_append hc _)
    | cons d txt' =>
      obtain ⟨hd, htail⟩ := List.forall_mem_cons.mp hpresent'
      rw [State.codesOf_cons, List.append_assoc] at hsplit
      have hfront : (s.entry c).string <+: (s.entry d).string ++ (s.codesOf txt' ++ frag') :=
        hsplit ▸ List.prefix_append _ _
      obtain rfl : c = d := by
        rcases List.prefix_or_prefix_of_prefix hfront (List.prefix_append _ _) with hpre | hpre
        · exact hprefix.eq_of_isPrefix hc hd hpre
        · exact (hprefix.eq_of_isPrefix hd hc hpre).symm
      obtain ⟨rfl, rfl⟩ := ih hpresent htail (List.append_cancel_left hsplit)
      exact ⟨rfl, rfl⟩

/-! ### The scan (44_decoder.md R200, R201, R204) -/

theorem State.decodeBits_concat (s : State) (input : Bitstring) (b : Bool) :
    s.decodeBits (input ++ [b]) = s.decodeBit (s.decodeBits input) b := by
  simp [State.decodeBits]

/-- The scan splits the bits it has read, and the candidate starts where the codes end. -/
theorem State.parses_decodeBits (hvalid : s.codeValid = true) (hprefix : s.romIsPrefixCode)
    (input : Bitstring) :
    s.Parses input (s.decodeBits input).out (s.decodeBits input).candidate ∧
      (s.decodeBits input).start = (s.codesOf (s.decodeBits input).out).length := by
  induction input using List.reverseRecOn with
  | nil => exact ⟨⟨List.forall_mem_nil _, s.noCodeIn_nil, rfl⟩, rfl⟩
  | append_singleton input b ih =>
    rw [State.decodeBits_concat]
    generalize s.decodeBits input = scan at ih ⊢
    obtain ⟨⟨hpresent, hfrag, hsplit⟩, hstart⟩ := ih
    unfold State.decodeBit
    split
    next c hmatch =>
      obtain ⟨hc, hcode⟩ := State.code_of_symbolOf hprefix hmatch
      have hcodes : s.codesOf (scan.out ++ [c]) = s.codesOf scan.out ++ (scan.candidate ++ [b]) := by
        simp [State.codesOf, hcode]
      refine ⟨⟨?_, s.noCodeIn_nil, ?_⟩, ?_⟩
      · exact List.forall_mem_append.mpr ⟨hpresent, by simpa using hc⟩
      · rw [hcodes, hsplit, List.append_nil, List.append_assoc]
      · simp [hcodes, hstart]
    next hnone =>
      refine ⟨⟨hpresent, ?_, ?_⟩, hstart⟩
      · exact State.noCodeIn_concat hfrag fun c => State.no_code_of_symbolOf hvalid hprefix hnone
      · rw [hsplit, List.append_assoc]

/-- The scan of a bitstring with a known split ends with that split. -/
theorem State.decodeBits_eq_of_parses (hvalid : s.codeValid = true) (hprefix : s.romIsPrefixCode)
    (h : s.Parses input txt frag) : s.decodeBits input =
      { out := txt, start := (s.codesOf txt).length, candidate := frag } := by
  obtain ⟨hscan, hstart⟩ := s.parses_decodeBits hvalid hprefix input
  obtain ⟨rfl, rfl⟩ := h.unique hprefix hscan
  rw [← hstart]

end

/-! ### The writes of a success (44_decoder.md R205, R206) -/

section
variable (s : State) (scan : DecodeScan)

@[simp] theorem State.writeDecoded_text :
    (s.writeDecoded scan).text = Memory.writeAll s.text 0 scan.out := by
  unfold State.writeDecoded
  split <;> rfl

@[simp] theorem State.writeDecoded_textLen :
    (s.writeDecoded scan).textLen = BitVec.ofNat 24 scan.out.length := by
  unfold State.writeDecoded
  split <;> rfl

/-- Without a fragment only the text and its length are written. -/
theorem State.writeDecoded_of_no_fragment {scan : DecodeScan} (h : scan.candidate = []) :
    s.writeDecoded scan = { s with
      text := Memory.writeAll s.text 0 scan.out, textLen := BitVec.ofNat 24 scan.out.length } :=
  if_pos h

/-- A fragment is reported with its place. -/
theorem State.writeDecoded_of_fragment {scan : DecodeScan} (h : scan.candidate ≠ []) :
    s.writeDecoded scan = { s with
      text := Memory.writeAll s.text 0 scan.out, textLen := BitVec.ofNat 24 scan.out.length
      trunc := true
      dangleStart := BitVec.ofNat 24 scan.start
      dangleLen := BitVec.ofNat 24 scan.candidate.length } :=
  if_neg h

end

/-! ### The command -/

theorem exec_decode (s : State) : exec .decode s = s.finish (decodeRule s) := rfl

/-- DECODE raises: no committed table, or a written bitstring with more symbols than text memory
holds. -/
theorem decodeRule_raised_iff {s : State} {e : CmdError} :
    decodeRule s = .error (.raised e) ↔
      (s.codeValid = false ∧ e = .missingCodeTable) ∨
      (s.codeValid = true ∧ ∃ input, s.bitOperand = .ok input ∧
        s.cfg.maxTextLen < (s.decodeBits input).out.length ∧
        e = .capacity (s.decodeBits input).out.length s.cfg.maxTextLen) := by
  unfold decodeRule
  cases s.codeValid with
  | false => simp [eq_comm]
  | true =>
    cases s.bitOperand with
    | error f => simp
    | ok input =>
      by_cases hlong : s.cfg.maxTextLen < (s.decodeBits input).out.length <;> simp [hlong, eq_comm]

/-- DECODE ends with the error its rule raises, and the state is otherwise the one before it. -/
theorem exec_decode_of_raised {s : State} {e : CmdError} (h : decodeRule s = .error (.raised e)) :
    exec .decode s = .next (s.ended e.code e.info0 e.info1) := by
  rw [exec_decode, h, State.finish_raised]
  rfl

section
variable {s : State} {input frag : Bitstring} {txt : List Symbol}

/-- A written bitstring is the bit operand. -/
theorem State.bitOperand_of_bitsAre (h : s.bitsAre input) : s.bitOperand = .ok input := by
  obtain ⟨hlen, hholds⟩ := h
  exact State.bitOperand_ok_iff.mpr ⟨hlen, fun i hi => by simpa using hholds i hi⟩

/-- DECODE of a bitstring whose text fits writes that text and reports the fragment. -/
theorem decodeRule_of_fits (hvalid : s.codeValid = true) (hprefix : s.romIsPrefixCode)
    (hbits : s.bitsAre input) (hparse : s.Parses input txt frag)
    (hfits : txt.length ≤ s.cfg.maxTextLen) :
    decodeRule s = .ok (s.writeDecoded
      { out := txt, start := (s.codesOf txt).length, candidate := frag }) := by
  have hscan := State.decodeBits_eq_of_parses hvalid hprefix hparse
  exact decodeRule_ok_iff.mpr
    ⟨hvalid, input, State.bitOperand_of_bitsAre hbits, by rwa [hscan], by rw [hscan]⟩

/-- DECODE of a bitstring whose text does not fit raises CAPACITY (44_decoder.md R207). -/
theorem exec_decode_of_too_long (hvalid : s.codeValid = true) (hprefix : s.romIsPrefixCode)
    (hbits : s.bitsAre input) (hparse : s.Parses input txt frag)
    (hlong : s.cfg.maxTextLen < txt.length) :
    exec .decode s =
      .next (s.ended 3 (BitVec.ofNat 32 txt.length) (BitVec.ofNat 32 s.cfg.maxTextLen)) := by
  have hscan := State.decodeBits_eq_of_parses hvalid hprefix hparse
  refine exec_decode_of_raised (e := .capacity txt.length s.cfg.maxTextLen) ?_
  exact decodeRule_raised_iff.mpr
    (.inr ⟨hvalid, input, State.bitOperand_of_bitsAre hbits, by rwa [hscan], by rw [hscan]⟩)

/-- The codes, the fragment and the text of a bitstring in bit memory have lengths that fit 24 bits. -/
theorem State.Parses.lengths_lt (hbits : s.bitsAre input) (hparse : s.Parses input txt frag) :
    txt.length < 2 ^ 24 ∧ (s.codesOf txt).length < 2 ^ 24 ∧ frag.length < 2 ^ 24 := by
  have hsymbols := State.length_le_codesOf_length hparse.present
  have hinput : (s.codesOf txt).length + frag.length < 2 ^ 24 := by
    rw [← List.length_append, ← hparse.split, hbits.1]
    exact s.bitLen.isLt
  omega

end

/-- Settles O46: the scan ends with the given split, and its lengths fit the registers. -/
theorem decodeWritesTheParsedText : Obligations.DecodeWritesTheParsedText := by
  intro s txt frag hvalid hprefix hbits hpresent hfrag hfits
  have hparse : s.Parses (s.codesOf txt ++ frag) txt frag := ⟨hpresent, hfrag, rfl⟩
  obtain ⟨htxt, hcodes, hfragLen⟩ := hparse.lengths_lt hbits
  have hrule := decodeRule_of_fits hvalid hprefix hbits hparse hfits
  refine ⟨_, by rw [exec_decode, hrule, State.finish_ok], ?frame, ?length, ?holds,
    fun a ha => ?beyond, fun hnil => ?whole, fun hne => ?fragment⟩
  case frame => exact congrArg State.complete (decodeRule_eq_withRow hrule)
  case length =>
    rw [State.complete_textLen, State.writeDecoded_textLen]
    exact Nat.mod_eq_of_lt htxt
  case holds =>
    rw [State.complete_text, State.writeDecoded_text]
    exact Memory.holds_writeAll s.text 0 txt
  case beyond =>
    rw [State.complete_text, State.writeDecoded_text]
    exact (Memory.read_writeAll ..).trans (if_neg fun hin => absurd hin.2 (by simpa using ha))
  case whole =>
    rw [State.writeDecoded_of_no_fragment s hnil]
    exact ⟨rfl, rfl, rfl⟩
  case fragment =>
    rw [State.writeDecoded_of_fragment s hne]
    exact ⟨rfl, Nat.mod_eq_of_lt hcodes, Nat.mod_eq_of_lt hfragLen⟩

/-- Settles O47: the two errors of DECODE; the number of symbols is that of the given split. -/
theorem decodeRaisesItsErrors : Obligations.DecodeRaisesItsErrors := by
  refine fun s =>
    ⟨fun hinvalid => ?missing, fun txt frag hvalid hprefix hbits hpresent hfrag => ?long⟩
  case missing => exact exec_decode_of_raised (decodeRule_raised_iff.mpr (.inl ⟨hinvalid, rfl⟩))
  case long => exact exec_decode_of_too_long hvalid hprefix hbits ⟨hpresent, hfrag, rfl⟩

/-- Settles O45: the split is the one the scan finds. -/
theorem decodeAnswersEveryBitstring : Obligations.DecodeAnswersEveryBitstring := by
  intro s input hcommit hvalid hbits
  have hprefix := hcommit.prefixCode hvalid
  obtain ⟨hparse, -⟩ := s.parses_decodeBits hvalid hprefix input
  rcases Nat.lt_or_ge s.cfg.maxTextLen (s.decodeBits input).out.length with hlong | hfits
  · exact ⟨_, _, _, exec_decode_of_too_long hvalid hprefix hbits hparse hlong, hparse.present,
      hparse.noMatch, hparse.split, .inr ⟨hlong, rfl⟩⟩
  · obtain ⟨t, hnext, hframe, hlen, hholds, -⟩ := decodeWritesTheParsedText s _ _ hvalid hprefix
      (hparse.split ▸ hbits) hparse.present hparse.noMatch hfits
    refine ⟨t, _, _, hnext, hparse.present, hparse.noMatch, hparse.split,
      .inl ⟨hfits, ?_, hlen.symm, hholds⟩⟩
    rw [hframe]
    rfl

/-! ### The round trip (44_decoder.md R209) -/

theorem State.entry_eq_of_rom_eq {s t : State} (h : t.rom = s.rom) : t.entry = s.entry := by
  funext c
  rw [State.entry, State.entry, getElem_congr_coll h]

/-- Settles O48: the output of ENCODE is split into the codes of the text and no fragment. -/
theorem decodeUndoesEncode : Obligations.DecodeUndoesEncode := by
  intro s txt htext hle hvalid hprefix hpresent hfits
  obtain ⟨t, hnext, hframe, hlen, hholds, -⟩ :=
    encodeConcatenatesTheCodes s txt htext hle (fun _ => hvalid) hpresent hfits
  refine ⟨t, hnext, fun t' hbits hbitLen hrom hcodeValid hcfg htrunc => ?_⟩
  rw [hframe] at hrom hcodeValid hcfg
  have hentry : t'.entry = s.entry := State.entry_eq_of_rom_eq hrom
  have hcodes : t'.codesOf txt = s.codesOf txt := by rw [State.codesOf, hentry, State.codesOf]
  have hbitsAre : t'.bitsAre (t'.codesOf txt ++ []) := by
    rw [List.append_nil, hcodes, State.bitsAre, hbits, hbitLen]
    exact ⟨hlen.symm, hholds⟩
  obtain ⟨u, hunext, huframe, hulen, huholds, -, hwhole, -⟩ :=
    decodeWritesTheParsedText t' txt [] (hcodeValid.trans hvalid)
      (by rwa [State.romIsPrefixCode, hentry]) hbitsAre (by rwa [State.allPresent, hentry])
      t'.noCodeIn_nil (hcfg ▸ hle)
  obtain ⟨hutrunc, -⟩ := hwhole rfl
  refine ⟨u, hunext, ?code, ?length, huholds, hutrunc.trans htrunc⟩
  case code =>
    rw [huframe]
    rfl
  case length => exact BitVec.eq_of_toNat_eq (hulen.trans htext.1)

end Sys2Proof.Machine
end

section
/-! # EMBED and EXTRACT

The least significant bits of the bytes that EMBED writes are its stream, the 24 header bits and then the
payload (45_lsb_channel.md R216, R221). EXTRACT of bytes with such a stream in their least significant bits
writes that payload and its length, so the round trip of R230 is one lemma on each side. Any 24 bits are the
header of the length they read as, so the same lemma says what EXTRACT does to any written pixels. -/

namespace Sys2Proof.Machine

/-! ### What a memory holds -/

/-- A written range holds some list of values. -/
theorem Memory.exists_holds_of_written {α : Type} {m : Memory α} {a n : Nat}
    (h : Memory.written m a n) : ∃ vs : List α, vs.length = n ∧ Memory.holds m a vs :=
  ⟨List.ofFn fun i : Fin n => (Memory.read m (a + i)).get (h i i.isLt), by simp, fun i hi => by simp⟩

/-- Writing again what a memory holds changes no address. -/
theorem Memory.read_writeAll_of_holds {α : Type} {m : Memory α} {a : Nat} {vs : List α}
    (h : Memory.holds m a vs) (b : Nat) : Memory.read (Memory.writeAll m a vs) b = Memory.read m b := by
  rw [Memory.read_writeAll]
  split
  next hin =>
    have hlt : b - a < vs.length := by omega
    rw [List.getElem?_eq_getElem hlt, ← h _ hlt, Nat.add_sub_cancel' hin.1]
  next => rfl

/-- A pixel operand inside written bytes is their slice. -/
theorem State.pixelOperand_of_holds {s : State} {bytes : List Byte} {a n : Nat}
    (h : Memory.holds s.pix 0 bytes) (hin : a + n ≤ bytes.length) :
    s.pixelOperand a n = .ok ((bytes.drop a).take n) := by
  have hlen : ((bytes.drop a).take n).length = n := by
    rw [List.length_take, List.length_drop]
    omega
  refine State.pixelOperand_ok_iff.mpr ⟨hlen, fun i hi => ?_⟩
  rw [List.getElem_take, List.getElem_drop, ← h (a + i) (by omega), Nat.zero_add]

/-! ### The stream (45_lsb_channel.md R216, R221) -/

@[simp] theorem embedStream_length (len : BitVec 24) (payload : Bitstring) :
    (embedStream len payload).length = 24 + payload.length := by
  rw [embedStream, List.length_append, headerBits_length]

/-- Slot `i` carries bit `23 - i` of the length, or bit `i - 24` of the payload. -/
theorem embedStream_getElem {len : BitVec 24} {payload : Bitstring} {i : Nat}
    (hi : i < (embedStream len payload).length) :
    (embedStream len payload)[i] =
      if i < 24 then len.getLsbD (23 - i) else payload.getD (i - 24) false := by
  rw [embedStream_length] at hi
  simp only [embedStream, List.getElem_append, headerBits_length]
  split
  next => exact strOf_getElem _
  next => rw [List.getD_eq_getElem _ _ (by omega)]

/-- The least significant bits of the bytes EMBED writes are its stream. -/
theorem map_lsb_zipWith_setLsb {bytes : List Byte} {stream : Bitstring}
    (h : bytes.length = stream.length) : (List.zipWith setLsb bytes stream).map lsb = stream := by
  induction bytes generalizing stream with
  | nil => exact (List.length_eq_zero_iff.mp h.symm).symm
  | cons v bytes ih =>
    cases stream with
    | nil => simp at h
    | cons b stream => simp [ih (Nat.succ.inj h)]

/-- Any 24 bits are the header of the length they read as. -/
theorem headerBits_bitsVal {header : Bitstring} (h : header.length = 24) :
    headerBits (BitVec.ofNat 24 (bitsVal header)) = header := by
  have hlt := bitsVal_lt header
  rw [h] at hlt
  rw [headerBits, BitVec.toNat_ofNat, Nat.mod_eq_of_lt hlt, hdrBits, ← h, strOf_bitsVal]

/-- At least 24 bytes carry a stream: the length their header declares, and the bits after it. -/
theorem map_lsb_eq_embedStream {bytes : List Byte} (h : 24 ≤ bytes.length) :
    bytes.map lsb = embedStream (BitVec.ofNat 24 (bitsVal ((bytes.take 24).map lsb)))
      ((bytes.drop 24).map lsb) := by
  rw [embedStream, headerBits_bitsVal (by simpa using h), ← List.map_append, List.take_append_drop]

/-- One more bit on the left weighs as much as the length of the rest says (00_scope.md R9). -/
theorem bitsVal_cons (b : Bool) (c : Bitstring) :
    bitsVal (b :: c) = b.toNat * 2 ^ c.length + bitsVal c := by
  induction c using List.reverseRecOn with
  | nil => simp [bitsVal]
  | append_singleton c x ih =>
    rw [← List.cons_append, bitsVal_concat, ih, bitsVal_concat, List.length_append,
      List.length_singleton, Nat.pow_succ]
    ring

/-- The value of the first `n` slots, slot `k` weighing `2 ^ (n - 1 - k)` (45_lsb_channel.md R216). -/
theorem bitsVal_map_lsb_take {bytes : List Byte} {n : Nat} (h : n ≤ bytes.length) :
    bitsVal ((bytes.take n).map lsb) =
      ((List.range n).map fun k => ((bytes.getD k 0).getLsbD 0).toNat * 2 ^ (n - 1 - k)).sum := by
  induction n generalizing bytes with
  | zero => rfl
  | succ n ih =>
    cases bytes with
    | nil => simp at h
    | cons v bytes =>
      have hle : n ≤ bytes.length := by simpa using h
      rw [List.take_succ_cons, List.map_cons, bitsVal_cons, ih hle, List.length_map,
        List.length_take_of_le hle, List.range_succ_eq_map, List.map_cons, List.sum_cons, List.map_map]
      congr 2
      refine List.map_congr_left fun k _ => ?_
      simp [Nat.sub_sub, Nat.add_comm 1]

/-- The length that the first 24 slots declare is below `2 ^ 24`. -/
theorem bitsVal_header_lt (bytes : List Byte) : bitsVal ((bytes.take 24).map lsb) < 2 ^ 24 := by
  refine (bitsVal_lt _).trans_le (Nat.pow_le_pow_right Nat.two_pos ?_)
  rw [List.length_map]
  exact List.length_take_le ..

/-! ### The end of a command -/

/-- A command completes with what its rule writes. -/
theorem State.finish_of_ok {s s' : State} {r : Except Halt State} (h : r = .ok s') :
    s.finish r = .next s'.complete := by
  rw [h, State.finish_ok]

/-- A command ends with the error its rule raises, and the state is otherwise the one before it. -/
theorem State.finish_of_raised {s : State} {r : Except Halt State} {e : CmdError}
    (h : r = .error (.raised e)) : s.finish r = .next (s.ended e.code e.info0 e.info1) := by
  rw [h, State.finish_raised]
  rfl

/-- The report of a pixel count beyond the memory (45_lsb_channel.md R219, R226). -/
theorem State.finish_of_tooManyPixels {s : State} {r : Except Halt State}
    (h : r = .error (.raised (.parameter s.pixCount.toNat s.cfg.maxPixels))) :
    s.finish r =
      .next (s.ended 7 (s.pixCount.setWidth 32) (BitVec.ofNat 32 s.cfg.maxPixels)) := by
  rw [State.finish_of_raised h, CmdError.info0, BitVec.ofNat_toNat]
  rfl

/-! ### EMBED -/

theorem exec_embed (s : State) : exec .embed s = s.finish (embedRule s) := rfl

/-- EMBED raises: more pixels than the memory has, or a stream that does not fit
(45_lsb_channel.md R219, R220). -/
theorem embedRule_raised_iff {s : State} {e : CmdError} :
    embedRule s = .error (.raised e) ↔
      (s.cfg.maxPixels < s.pixCount.toNat ∧ e = .parameter s.pixCount.toNat s.cfg.maxPixels) ∨
      (s.pixCount.toNat ≤ s.cfg.maxPixels ∧ s.slots < hdrBits + s.bitLen.toNat ∧
        e = .capacity (hdrBits + s.bitLen.toNat) s.slots) := by
  unfold embedRule
  by_cases hcount : s.cfg.maxPixels < s.pixCount.toNat
  · simp [hcount, Nat.not_le.mpr hcount, eq_comm]
  · by_cases hfull : s.slots < hdrBits + s.bitLen.toNat
    · simp [hcount, Nat.not_lt.mp hcount, hfull, eq_comm]
    · cases s.bitOperand with
      | error f => simp [hcount, hfull]
      | ok payload => cases s.pixelOperand 0 (hdrBits + s.bitLen.toNat) <;> simp [hcount, hfull]

section
variable {s : State} {payload : Bitstring} {bytes : List Byte}

/-- EMBED of a written bitstring into written pixels that hold the stream. -/
theorem embedRule_of_fits (hbits : s.bitsAre payload) (hlen : bytes.length = 24 + payload.length)
    (hpix : Memory.holds s.pix 0 bytes) (hcount : s.pixCount.toNat ≤ s.cfg.maxPixels)
    (hfits : 24 + payload.length ≤ 3 * s.pixCount.toNat) :
    embedRule s = .ok { s with
      pix := Memory.writeAll s.pix 0 (List.zipWith setLsb bytes (embedStream s.bitLen payload)) } := by
  have hread : s.pixelOperand 0 (24 + s.bitLen.toNat) = .ok bytes := by
    rw [← hbits.1, ← hlen, State.pixelOperand_of_holds hpix (by omega), List.drop_zero,
      List.take_length]
  exact embedRule_ok_iff.mpr
    ⟨hcount, hbits.1 ▸ hfits, payload, bytes, State.bitOperand_of_bitsAre hbits, hread, rfl⟩

/-- With a pixel count within the memory, EMBED reports code 3 exactly when the stream does not fit. -/
theorem exec_embed_capacity_iff (hcount : s.pixCount.toNat ≤ s.cfg.maxPixels) :
    (∃ t, exec .embed s = .next t ∧ t.errCode = 3) ↔
      3 * s.pixCount.toNat < 24 + s.bitLen.toNat := by
  rw [exec_embed]
  constructor
  · rintro ⟨t, hnext, hcode⟩
    rcases State.finish_next_iff.mp hnext with ⟨s', -, rfl⟩ | ⟨e, hraise, rfl⟩
    · rw [State.complete_errCode] at hcode
      exact absurd hcode (by decide)
    · rcases embedRule_raised_iff.mp hraise with ⟨hmany, -⟩ | ⟨-, hfull, -⟩
      · exact absurd hmany (Nat.not_lt.mpr hcount)
      · exact hfull
  · intro hfull
    exact ⟨_, State.finish_of_raised (embedRule_raised_iff.mpr (.inr ⟨hcount, hfull, rfl⟩)), rfl⟩

end

/-- Settles O49: a byte that EMBED writes is the old one with its stream bit. -/
theorem embedWritesHeaderAndPayload : Obligations.EmbedWritesHeaderAndPayload := by
  intro s payload bytes hbits hlen hpix hcount hfits
  have hstream : bytes.length = (embedStream s.bitLen payload).length :=
    hlen.trans (embedStream_length ..).symm
  have hwritten : (List.zipWith setLsb bytes (embedStream s.bitLen payload)).length = bytes.length := by
    rw [List.length_zipWith, ← hstream, Nat.min_self]
  have hrule := embedRule_of_fits hbits hlen hpix hcount hfits
  refine ⟨_, State.finish_of_ok hrule, rfl, fun i hi => ?slot, fun a ha => ?beyond⟩
  case slot =>
    have hread := Memory.holds_writeAll s.pix 0 _ i (hwritten ▸ hi)
    rw [Nat.zero_add, List.getElem_zipWith] at hread
    refine ⟨_, hread, ?_, fun j hj => setLsb_getLsbD hj⟩
    exact (lsb_setLsb _ _).trans (embedStream_getElem (hstream ▸ hi))
  case beyond => exact (Memory.read_writeAll ..).trans (if_neg (by omega))

/-- Settles O50: the two errors of `embedRule_raised_iff`; both numbers of CAPACITY fit a word. -/
theorem embedRaisesParameterOrCapacity : Obligations.EmbedRaisesParameterOrCapacity := by
  refine fun s => ⟨fun hmany => ?parameter, fun hcount hfull => ?capacity⟩
  case parameter => exact State.finish_of_tooManyPixels (embedRule_raised_iff.mpr (.inl ⟨hmany, rfl⟩))
  case capacity =>
    have hbitLen := s.bitLen.isLt
    have hpixCount := s.pixCount.isLt
    refine ⟨BitVec.ofNat 32 (24 + s.bitLen.toNat), BitVec.ofNat 32 (3 * s.pixCount.toNat),
      Nat.mod_eq_of_lt (by omega), Nat.mod_eq_of_lt (by omega), ?_⟩
    exact State.finish_of_raised (embedRule_raised_iff.mpr (.inr ⟨hcount, hfull, rfl⟩))

/-- Settles O51: each clause is the test `3 * PIX_COUNT < 24 + BIT_LEN` at its own numbers. -/
theorem embedCapacityBoundary : Obligations.EmbedCapacityBoundary := by
  refine fun s hcount => ⟨fun hfewest hbits hpix => ?fits, fun len hlen hfewest => ?oneMore,
    fun hheader => ?firstFailing⟩
  case fits =>
    obtain ⟨payload, hlen, hpayload⟩ := Memory.exists_holds_of_written hbits
    obtain ⟨bytes, hbytesLen, hbytes⟩ := Memory.exists_holds_of_written hpix
    have hrule := embedRule_of_fits ⟨hlen, hpayload⟩ (hlen ▸ hbytesLen) hbytes hcount (by omega)
    exact ⟨_, State.finish_of_ok hrule, rfl⟩
  case oneMore =>
    rw [exec_embed_capacity_iff hcount]
    omega
  case firstFailing =>
    rw [exec_embed_capacity_iff hcount]
    omega

/-! ### EXTRACT -/

theorem exec_extract (s : State) : exec .extract s = s.finish (extractRule s) := rfl

/-- EXTRACT raises: more pixels than the memory has, too few for a header, or a header that declares more
bits than there are slots after it (45_lsb_channel.md R226 to R228). -/
theorem extractRule_raised_iff {s : State} {e : CmdError} :
    extractRule s = .error (.raised e) ↔
      (s.cfg.maxPixels < s.pixCount.toNat ∧ e = .parameter s.pixCount.toNat s.cfg.maxPixels) ∨
      (s.pixCount.toNat ≤ s.cfg.maxPixels ∧ s.slots < hdrBits ∧ e = .noHeader s.slots) ∨
      (s.pixCount.toNat ≤ s.cfg.maxPixels ∧ hdrBits ≤ s.slots ∧
        ∃ header, s.pixelOperand 0 hdrBits = .ok header ∧
          s.slots - hdrBits < bitsVal (header.map lsb) ∧
          e = .corruptHeader (bitsVal (header.map lsb)) (s.slots - hdrBits)) := by
  unfold extractRule
  by_cases hcount : s.cfg.maxPixels < s.pixCount.toNat
  · simp [hcount, Nat.not_le.mpr hcount, eq_comm]
  · by_cases hfew : s.slots < hdrBits
    · simp [hcount, Nat.not_lt.mp hcount, hfew, Nat.not_le.mpr hfew, eq_comm]
    · cases s.pixelOperand 0 hdrBits with
      | error f => simp [hcount, hfew]
      | ok header =>
        by_cases hlong : s.slots - hdrBits < bitsVal (header.map lsb)
        · simp [hcount, Nat.not_lt.mp hcount, hfew, Nat.not_lt.mp hfew, hlong, eq_comm]
        · cases hread : s.pixelOperand hdrBits (bitsVal (header.map lsb)) <;>
            simp [hcount, hfew, hlong, hread]

/-- EXTRACT of written pixels whose least significant bits are a stream writes its payload and its
length. -/
theorem extractRule_of_embedStream {s : State} {bytes : List Byte} {len : BitVec 24}
    {payload : Bitstring} (hpix : Memory.holds s.pix 0 bytes)
    (hstream : bytes.map lsb = embedStream len payload) (hlen : payload.length = len.toNat)
    (hcount : s.pixCount.toNat ≤ s.cfg.maxPixels)
    (hfits : 24 + payload.length ≤ 3 * s.pixCount.toNat) :
    extractRule s = .ok { s with bits := Memory.writeAll s.bits 0 payload, bitLen := len } := by
  have htotal : bytes.length = 24 + payload.length := by
    simpa using congrArg List.length hstream
  have hheader : ((bytes.drop 0).take 24).map lsb = headerBits len := by
    rw [List.drop_zero, List.map_take, hstream, embedStream, List.take_left' (headerBits_length len)]
  have hbody : ((bytes.drop 24).take len.toNat).map lsb = payload := by
    rw [List.map_take, List.map_drop, hstream, embedStream, List.drop_left' (headerBits_length len),
      List.take_of_length_le hlen.le]
  have hval : bitsVal (((bytes.drop 0).take 24).map lsb) = len.toNat := by
    rw [hheader, bitsVal_headerBits]
  refine extractRule_ok_iff.mpr ⟨hcount, by rw [State.slots, hdrBits]; omega, _, _,
    State.pixelOperand_of_holds hpix (by rw [hdrBits]; omega), ?short,
    State.pixelOperand_of_holds hpix ?inside, ?writes⟩
  case short => rw [hdrBits, hval, State.slots]; omega
  case inside => rw [hdrBits, hval]; omega
  case writes => rw [hdrBits, hval, hbody, BitVec.ofNat_toNat, BitVec.setWidth_eq]

/-- Settles O52: 24 written bytes and more carry a stream, and EXTRACT reads it. -/
theorem extractReadsHeaderAndPayload : Obligations.ExtractReadsHeaderAndPayload := by
  intro s bytes len hpix hlen hdeclared hcount hfits
  have hval : bitsVal ((bytes.take 24).map lsb) = len :=
    (bitsVal_map_lsb_take (by omega)).trans hdeclared.symm
  have hlt : len < 2 ^ 24 := hval ▸ bitsVal_header_lt bytes
  have hbody : ((bytes.drop 24).map lsb).length = len := by
    rw [List.length_map, List.length_drop]
    omega
  have hstream := map_lsb_eq_embedStream (bytes := bytes) (by omega)
  rw [hval] at hstream
  have hrule := extractRule_of_embedStream hpix hstream
    (hbody.trans (Nat.mod_eq_of_lt hlt).symm) hcount (by omega)
  refine ⟨_, State.finish_of_ok hrule, rfl, Nat.mod_eq_of_lt hlt,
    fun j hj => ?payload, fun a ha => ?beyond⟩
  case payload =>
    have hread := Memory.holds_writeAll s.bits 0 _ j (hbody.symm ▸ hj)
    rw [Nat.zero_add, List.getElem_map, List.getElem_drop] at hread
    rw [List.getD_eq_getElem _ _ (by omega)]
    exact hread
  case beyond => exact (Memory.read_writeAll ..).trans (if_neg (by omega))

/-- Settles O53: the three errors of `extractRule_raised_iff`, with the length the header declares. -/
theorem extractRaisesItsErrors : Obligations.ExtractRaisesItsErrors := by
  refine fun s => ⟨fun hmany => ?parameter, fun hcount hfew => ?noHeader,
    fun hcount henough header len hheader hpix hdeclared hlong => ?corrupt⟩
  case parameter => exact State.finish_of_tooManyPixels (extractRule_raised_iff.mpr (.inl ⟨hmany, rfl⟩))
  case noHeader =>
    have hslots : s.slots < hdrBits := by rw [State.slots, hdrBits]; omega
    exact State.finish_of_raised (extractRule_raised_iff.mpr (.inr (.inl ⟨hcount, hslots, rfl⟩)))
  case corrupt =>
    have hslots : hdrBits ≤ s.slots := by rw [State.slots, hdrBits]; omega
    have hread : s.pixelOperand 0 hdrBits = .ok (header.take 24) :=
      State.pixelOperand_of_holds hpix (by rw [hdrBits]; omega)
    have hval : bitsVal ((header.take 24).map lsb) = len :=
      (bitsVal_map_lsb_take hheader.ge).trans hdeclared.symm
    have hraise := extractRule_raised_iff.mpr
      (.inr (.inr ⟨hcount, hslots, _, hread, hval.symm ▸ hlong, rfl⟩))
    rw [exec_extract, State.finish_of_raised hraise, hval]
    rfl

/-! ### The round trip (45_lsb_channel.md R230) -/

/-- Settles O54: the bytes EMBED writes carry its stream, and EXTRACT writes the payload over itself. -/
theorem extractUndoesEmbed : Obligations.ExtractUndoesEmbed := by
  intro s payload hbits hpix hcount hfits
  obtain ⟨bytes, hlen, hbytes⟩ := Memory.exists_holds_of_written hpix
  have hembed := embedRule_of_fits hbits hlen hbytes hcount hfits
  refine ⟨_, State.finish_of_ok hembed, fun t' hpix' hpixCount hbits' hcfg => ?_⟩
  simp only [State.complete_pix, State.complete_pixCount, State.complete_bits, State.complete_cfg]
    at hpix' hpixCount hbits' hcfg
  have hstream := map_lsb_zipWith_setLsb (hlen.trans (embedStream_length s.bitLen payload).symm)
  have hextract := extractRule_of_embedStream (s := t') (hpix' ▸ Memory.holds_writeAll s.pix 0 _)
    hstream hbits.1 (by rwa [hpixCount, hcfg]) (by rwa [hpixCount])
  refine ⟨_, State.finish_of_ok hextract, rfl, rfl, hpix', fun a => ?_⟩
  rw [State.complete_bits, hbits']
  exact Memory.read_writeAll_of_holds hbits.2 a

end Sys2Proof.Machine
end

section
/-! # Every step keeps the command fields and the counts consistent

`FlagsOk` and `CountersOk` speak of the fields that report the last command. Among host transactions only
the writes of `CMD` and `STATUS` reach these fields. A completion writes them afresh: an error meets a
clear report (46_control.md R235), and DECODE's fragment ends where the bitstring it read ends. -/

namespace Sys2Proof.Machine

/-! ### The command fields of a state -/

/-- The fields that report a command and its counts (10_state.md R35, R40 to R46). -/
structure CommandFields where
  /-- the opcode latch, `STATUS.BUSY` (10_state.md R61) -/
  latch : Option Word
  /-- `STATUS.DONE` -/
  done : Bool
  /-- `STATUS.TRUNC` -/
  trunc : Bool
  /-- `STATUS.ERR_CODE` -/
  errCode : BitVec 4
  /-- `ERR_INFO0` (10_state.md R43) -/
  errInfo0 : Word
  /-- `ERR_INFO1` (10_state.md R44) -/
  errInfo1 : Word
  /-- `DANGLE_START` (10_state.md R45) -/
  dangleStart : BitVec 24
  /-- `DANGLE_LEN` (10_state.md R46) -/
  dangleLen : BitVec 24
  /-- `SYM_COUNT` (10_state.md R40) -/
  symCount : BitVec 9
  /-- `NODE_COUNT` (10_state.md R41) -/
  nodeCount : BitVec 10
  /-- `ROOT` (10_state.md R42) -/
  root : BitVec 9

/-- The command fields of a state. -/
def State.commandFields (s : State) : CommandFields :=
  { latch := s.latch, done := s.done, trunc := s.trunc, errCode := s.errCode, errInfo0 := s.errInfo0
    errInfo1 := s.errInfo1, dangleStart := s.dangleStart, dangleLen := s.dangleLen
    symCount := s.symCount, nodeCount := s.nodeCount, root := s.root }

@[simp] theorem State.flagHostErr_commandFields (s : State) :
    s.flagHostErr.commandFields = s.commandFields := rfl
@[simp] theorem State.advanceMemAddr_commandFields (s : State) :
    s.advanceMemAddr.commandFields = s.commandFields := rfl

/-- No window write reaches the command fields (20_memory.md R86). -/
@[simp] theorem State.windowWrite_commandFields (s : State) (win : Window) (w : Nat) (data : Word) :
    (s.windowWrite win w data).commandFields = s.commandFields := by
  cases win with
  | bits => simp only [State.windowWrite, State.commandFields]
  | nodes => exact s.flagHostErr_commandFields
  | text | pixel | freqTab | codeRom => rfl

/-- Of the registers only `CMD` and `STATUS` reach the command fields (20_memory.md R83). -/
theorem State.writeReg_commandFields_cases (s : State) (data : Word) (r : Reg) :
    (s.writeReg data r).commandFields = s.commandFields ∨
      s.writeReg data r = s.issue data ∨ s.writeReg data r = s.writeStatus data := by
  cases r with
  | cmd => exact .inr (.inl rfl)
  | status => exact .inr (.inr rfl)
  | _ => exact .inl rfl

/-- A performed write leaves the command fields alone, issues a command, or writes `STATUS`. -/
theorem performWrite_commandFields_cases (off : BitVec 12) (data : Word) (s : State) :
    (performWrite off data s).commandFields = s.commandFields ∨
      performWrite off data s = s.issue data ∨ performWrite off data s = s.writeStatus data := by
  unfold performWrite
  split
  · unfold writeMemData
    cases s.windowInRange <;> exact .inl (by simp)
  · exact s.writeReg_commandFields_cases data _
  · exact .inl rfl

/-- A host transaction leaves the command fields alone, issues a command, or writes `STATUS`. -/
theorem hostTransaction_commandFields_cases {x : HostTxn} {s t : State}
    (h : hostTransaction x s = .next t) :
    t.commandFields = s.commandFields ∨ (∃ w, t = s.issue w) ∨ ∃ w, t = s.writeStatus w := by
  rcases hostTransaction_frame h with ⟨v, e, a, n, rfl⟩ | ⟨off, be, data, -, rfl⟩
  · exact .inl rfl
  · exact (performWrite_commandFields_cases off data s).imp_right
      (.imp (fun hissue => ⟨data, hissue⟩) (fun hstatus => ⟨data, hstatus⟩))

/-- An event that leaves the command fields alone keeps the flags consistent. -/
theorem State.FlagsOk.of_commandFields_eq {s t : State} (hs : s.FlagsOk)
    (h : t.commandFields = s.commandFields) : t.FlagsOk := by
  obtain ⟨hlatch, hdone, htrunc, hcode, hinfo0, hinfo1, hstart, hlen, -, -, -⟩ :=
    CommandFields.mk.inj h
  obtain ⟨inFlight, errCode, noError, truncSuccess, noFragment, fragment⟩ := hs
  constructor <;> simpa only [hlatch, hdone, htrunc, hcode, hinfo0, hinfo1, hstart, hlen]

/-- An event that leaves the command fields alone keeps the counts consistent. -/
theorem State.CountersOk.of_commandFields_eq {s t : State} (hs : s.CountersOk)
    (h : t.commandFields = s.commandFields) : t.CountersOk := by
  obtain ⟨-, -, -, -, -, -, -, -, hsym, hcount, hroot⟩ := CommandFields.mk.inj h
  exact ⟨hsym ▸ hs.symCount, hcount ▸ hroot ▸ hs.tree⟩

/-! ### The fragment DECODE reports (44_decoder.md R204, R205) -/

/-- A fragment is reported exactly when `TRUNC` is set, within `2^24 - 1` bits (10_state.md R45,
R46). -/
structure State.FragmentOk (s : State) : Prop where
  absent : s.trunc = false → s.dangleStart = 0 ∧ s.dangleLen = 0
  present : s.trunc = true →
    1 ≤ s.dangleLen.toNat ∧ s.dangleStart.toNat + s.dangleLen.toNat ≤ maxBits

theorem State.FlagsOk.fragmentOk {s : State} (hs : s.FlagsOk) : s.FragmentOk :=
  ⟨hs.noFragment, hs.fragment⟩

/-- The candidate is the end of what the scan has read. -/
theorem State.decodeBits_start_add_length (s : State) (input : Bitstring) :
    (s.decodeBits input).start + (s.decodeBits input).candidate.length = input.length := by
  induction input using List.reverseRecOn with
  | nil => rfl
  | append_singleton input b ih =>
    rw [State.decodeBits_concat, List.length_append, ← ih]
    unfold State.decodeBit
    split
    · rfl
    · simp [Nat.add_assoc]

/-- A fragment inside the longest bitstring fits its registers. -/
theorem State.writeDecoded_fragmentOk {s : State} {scan : DecodeScan} (hs : s.FragmentOk)
    (hscan : scan.start + scan.candidate.length ≤ maxBits) : (s.writeDecoded scan).FragmentOk := by
  by_cases hfrag : scan.candidate = []
  · rw [State.writeDecoded_of_no_fragment s hfrag]
    exact ⟨hs.absent, hs.present⟩
  · have hpos : 1 ≤ scan.candidate.length := List.length_pos_of_ne_nil hfrag
    have hstart : (BitVec.ofNat 24 scan.start).toNat = scan.start :=
      Nat.mod_eq_of_lt (by rw [maxBits] at hscan; omega)
    have hlen : (BitVec.ofNat 24 scan.candidate.length).toNat = scan.candidate.length :=
      Nat.mod_eq_of_lt (by rw [maxBits] at hscan; omega)
    rw [State.writeDecoded_of_fragment s hfrag]
    refine ⟨nofun, fun _ => ?_⟩
    rw [hstart, hlen]
    exact ⟨hpos, hscan⟩

/-- DECODE reads at most `2^24 - 1` bits, so its fragment lies within them (44_decoder.md R200). -/
theorem decodeRule_fragmentOk {s s' : State} (hs : s.FragmentOk) (h : decodeRule s = .ok s') :
    s'.FragmentOk := by
  obtain ⟨-, input, hinput, -, rfl⟩ := decodeRule_ok_iff.mp h
  obtain ⟨hlen, -⟩ := State.bitOperand_ok_iff.mp hinput
  refine State.writeDecoded_fragmentOk hs ?_
  rw [State.decodeBits_start_add_length, hlen]
  exact Nat.le_sub_one_of_lt s.bitLen.isLt

/-- No command but DECODE has the fragment in its row (30_encoding.md R121). -/
theorem State.FragmentOk.withRow {i : Instr} {s : State} (hs : s.FragmentOk) (hi : i ≠ .decode)
    (s' : State) : (s.withRow i s').FragmentOk := by
  cases i with
  | decode => exact absurd rfl hi
  | nop | freq | build | encode | embed | extract | commitTable => exact ⟨hs.absent, hs.present⟩

/-! ### What keeps the flags consistent -/

/-- An issue clears what is reported (46_control.md R235). -/
theorem State.issue_flagsOk (s : State) (w : Word) : (s.issue w).FlagsOk where
  inFlight _ := ⟨rfl, rfl, rfl, rfl, rfl, rfl, rfl⟩
  errCode := Nat.zero_le 8
  noError _ := ⟨rfl, rfl⟩
  truncSuccess := nofun
  noFragment _ := ⟨rfl, rfl⟩
  fragment := nofun

/-- A write of `STATUS` can lower `DONE`, which is low while a command is in flight (10_state.md
R35). -/
theorem State.FlagsOk.writeStatus {s : State} (hs : s.FlagsOk) (w : Word) :
    (s.writeStatus w).FlagsOk where
  inFlight hbusy := by
    obtain ⟨hdone, hrest⟩ := hs.inFlight hbusy
    exact ⟨by simp [hdone], hrest⟩
  errCode := hs.errCode
  noError := hs.noError
  truncSuccess := hs.truncSuccess
  noFragment := hs.noFragment
  fragment := hs.fragment

/-- A success reports code 0 without details, and the fragment as it stands (46_control.md R236). -/
theorem State.FragmentOk.complete_flagsOk {s : State} (hs : s.FragmentOk) : s.complete.FlagsOk where
  inFlight := nofun
  errCode := Nat.zero_le 8
  noError _ := ⟨rfl, rfl⟩
  truncSuccess _ := rfl
  noFragment := hs.absent
  fragment := hs.present

/-- An error of the command in flight finds `TRUNC` clear and reports a code from 1 to 8
(46_control.md R235, 60_exceptions.md R250). -/
theorem State.FlagsOk.raise {s : State} (hs : s.FlagsOk) (hbusy : s.latch.isSome = true)
    (e : CmdError) : (s.raise e).FlagsOk := by
  obtain ⟨-, htrunc, -⟩ := hs.inFlight hbusy
  have hnotTrunc : (s.raise e).trunc ≠ true := by simp [htrunc]
  obtain ⟨hpos, hle⟩ := e.code_range
  have hcode : (s.raise e).errCode ≠ 0 := by
    intro hzero
    rw [← State.raise_errCode s, hzero] at hpos
    exact absurd hpos (by decide)
  exact {
    inFlight := nofun
    errCode := hle
    noError := fun hzero => absurd hzero hcode
    truncSuccess := fun ht => absurd ht hnotTrunc
    noFragment := hs.noFragment
    fragment := fun ht => absurd ht hnotTrunc }

/-- A reset clears what is reported (10_state.md R63). -/
theorem State.applyReset_flagsOk (s : State) : s.applyReset.FlagsOk where
  inFlight := nofun
  errCode := Nat.zero_le 8
  noError _ := ⟨rfl, rfl⟩
  truncSuccess := nofun
  noFragment _ := ⟨rfl, rfl⟩
  fragment := nofun

/-- The command in flight completes with consistent flags, whatever it is (46_control.md R236). -/
theorem exec_flagsOk {i : Instr} {s t : State} (hs : s.FlagsOk) (hbusy : s.latch.isSome = true)
    (h : exec i s = .next t) : t.FlagsOk := by
  by_cases hdecode : i = .decode
  · rw [hdecode, exec_decode] at h
    rcases State.finish_next_iff.mp h with ⟨s', hok, rfl⟩ | ⟨e, -, rfl⟩
    · exact (decodeRule_fragmentOk hs.fragmentOk hok).complete_flagsOk
    · exact hs.raise hbusy e
  · rcases exec_next_withRow h with ⟨s', rfl⟩ | ⟨e, rfl⟩
    · exact (hs.fragmentOk.withRow hdecode s').complete_flagsOk
    · exact hs.raise hbusy e

/-- The completion of the word in flight, legal or not (46_control.md R236, R238). -/
theorem completeWord_flagsOk {w : Word} {s t : State} (hbusy : s.latch = some w) (hs : s.FlagsOk)
    (h : completeWord w s = .next t) : t.FlagsOk := by
  have hbusy : s.latch.isSome = true := by rw [hbusy]; rfl
  rcases completeWord_cases w s with ⟨i, -, hc⟩ | ⟨r, -, hc⟩
  · exact exec_flagsOk hs hbusy (hc ▸ h)
  · rw [hc] at h; cases h
    exact hs.raise hbusy _

theorem hostTransaction_flagsOk {x : HostTxn} {s t : State} (hs : s.FlagsOk)
    (h : hostTransaction x s = .next t) : t.FlagsOk := by
  rcases hostTransaction_commandFields_cases h with heq | ⟨w, rfl⟩ | ⟨w, rfl⟩
  · exact hs.of_commandFields_eq heq
  · exact s.issue_flagsOk w
  · exact hs.writeStatus w

theorem rstTurn_flagsOk {s : State} (level : Bool) (hs : s.FlagsOk) : (rstTurn level s).FlagsOk := by
  cases level with
  | false => exact hs.of_commandFields_eq rfl
  | true => exact s.applyReset_flagsOk

theorem step_flagsOk {s t : State} (hs : s.FlagsOk) (h : step s = .next t) : t.FlagsOk :=
  step_keeps (fun _ _ hs => hs.of_commandFields_eq rfl)
    (fun _ _ _ _ => completeWord_flagsOk)
    (fun _ _ _ _ => hostTransaction_flagsOk)
    (fun level _ => rstTurn_flagsOk level) hs h

/-! ### What keeps the counts consistent -/

/-- BUILD's tree has 2 to 511 entries, and its root is the last (41_tree_builder.md R157). -/
theorem State.built_countersOk {s : State} (h : 1 ≤ s.distinctCount) : s.built.CountersOk := by
  have hle := s.distinctCount_le
  obtain ⟨hmany, hone, -⟩ := buildRootAndCount s s.built h (exec_build_eq_built h)
  refine ⟨s.built_symCount ▸ hle, .inr ?_⟩
  rcases h.eq_or_lt with h1 | h2
  · obtain ⟨hroot, hcount⟩ := hone h1.symm
    omega
  · obtain ⟨hroot, hcount⟩ := hmany h2
    omega

theorem exec_build_countersOk {s t : State} (hs : s.CountersOk) (h : exec .build s = .next t) :
    t.CountersOk := by
  rcases buildRule_eq s with ⟨-, hr⟩ | ⟨hne, -⟩
  · rw [exec_build, hr, State.finish_raised] at h; cases h
    exact ⟨hs.symCount, hs.tree⟩
  · have hpos : 1 ≤ s.distinctCount := List.length_pos_of_ne_nil hne
    exact eq_built_of_exec hpos h ▸ State.built_countersOk hpos

/-- COMMIT_TABLE counts at most 256 entries and keeps the tree (42_code_rom.md R174). -/
theorem exec_commitTable_countersOk {s t : State} (hs : s.CountersOk)
    (h : exec .commitTable s = .next t) : t.CountersOk := by
  rw [exec_commitTable] at h
  rcases commitRule_eq s with ⟨e, -, hr⟩ | ⟨-, hr⟩
  · rw [hr, State.finish_raised] at h; cases h
    exact ⟨hs.symCount, hs.tree⟩
  · rw [hr, State.finish_ok] at h; cases h
    have hcount : s.presentInRom.length ≤ 256 :=
      (List.length_filter_le ..).trans_eq (by simp [allSymbols])
    exact ⟨(Nat.mod_le ..).trans hcount, hs.tree⟩

/-- No command but BUILD and COMMIT_TABLE has a count in its row (30_encoding.md R121). -/
theorem State.CountersOk.withRow {i : Instr} {s : State} (hs : s.CountersOk) (hbuild : i ≠ .build)
    (hcommit : i ≠ .commitTable) (s' : State) : (s.withRow i s').CountersOk := by
  cases i with
  | build => exact absurd rfl hbuild
  | commitTable => exact absurd rfl hcommit
  | nop | freq | encode | decode | embed | extract => exact ⟨hs.symCount, hs.tree⟩

theorem exec_countersOk {i : Instr} {s t : State} (hs : s.CountersOk) (h : exec i s = .next t) :
    t.CountersOk := by
  by_cases hbuild : i = .build
  · exact exec_build_countersOk hs (hbuild ▸ h)
  by_cases hcommit : i = .commitTable
  · exact exec_commitTable_countersOk hs (hcommit ▸ h)
  rcases exec_next_withRow h with ⟨s', rfl⟩ | ⟨e, rfl⟩
  · have hrow := hs.withRow hbuild hcommit s'
    exact ⟨hrow.symCount, hrow.tree⟩
  · exact ⟨hs.symCount, hs.tree⟩

theorem completeWord_countersOk {w : Word} {s t : State} (hs : s.CountersOk)
    (h : completeWord w s = .next t) : t.CountersOk := by
  rcases completeWord_cases w s with ⟨i, -, hc⟩ | ⟨r, -, hc⟩
  · exact exec_countersOk hs (hc ▸ h)
  · rw [hc] at h; cases h
    exact ⟨hs.symCount, hs.tree⟩

theorem hostTransaction_countersOk {x : HostTxn} {s t : State} (hs : s.CountersOk)
    (h : hostTransaction x s = .next t) : t.CountersOk := by
  rcases hostTransaction_commandFields_cases h with heq | ⟨w, rfl⟩ | ⟨w, rfl⟩
  · exact hs.of_commandFields_eq heq
  · exact ⟨hs.symCount, hs.tree⟩
  · exact ⟨hs.symCount, hs.tree⟩

/-- A reset clears the counts and unsets `ROOT` (10_state.md R63). -/
theorem rstTurn_countersOk {s : State} (level : Bool) (hs : s.CountersOk) :
    (rstTurn level s).CountersOk := by
  cases level with
  | false => exact hs.of_commandFields_eq rfl
  | true => exact ⟨Nat.zero_le 256, .inl ⟨s.applyReset_nodeCount, s.applyReset_root⟩⟩

theorem step_countersOk {s t : State} (hs : s.CountersOk) (h : step s = .next t) : t.CountersOk :=
  step_keeps (fun _ _ hs => hs.of_commandFields_eq rfl)
    (fun _ _ _ _ _ => completeWord_countersOk)
    (fun _ _ _ _ => hostTransaction_countersOk)
    (fun level _ => rstTurn_countersOk level) hs h

/-! ### The statement -/

/-- Settles O57: each kind of turn keeps the flags, and each keeps the counts. -/
theorem stepKeepsCommandFields : Obligations.StepKeepsCommandFields :=
  fun _ _ hflags hcounters h => ⟨step_flagsOk hflags h, step_countersOk hcounters h⟩

end Sys2Proof.Machine
end

section
/-! # Issue, the Engine's turn, and NOP

A step takes the turn at the head of the agenda, or the Engine's when no input is left; so each statement
about a step is one about `engineTurn`, on the state with that entry removed (46_control.md R236). -/

namespace Sys2Proof.Machine

/-! ### Whose turn a step is -/

section
variable {s : State} {w : Word}

theorem step_of_agenda_nil (hcfg : s.cfg.wf = true) (hagenda : s.agenda = []) :
    step s = engineTurn s := by
  simp [step, nextTurn, hcfg, hagenda]

theorem step_of_agenda_cons {e : Event} {rest : List Event} (hcfg : s.cfg.wf = true)
    (hagenda : s.agenda = e :: rest) : step s = takeTurn e { s with agenda := rest } := by
  simp [step, nextTurn, hcfg, hagenda]

/-! ### The Engine's turn (46_control.md R236, R238) -/

theorem engineTurn_of_busy (hrst : s.rst = false) (hlatch : s.latch = some w) :
    engineTurn s = completeWord w s := by
  simp [engineTurn, hrst, hlatch]

/-- An idle block and one held in reset have no enabled Engine step (70_reset_and_hazards.md R280). -/
theorem engineTurn_of_not_enabled (h : s.latch = none ∨ s.rst = true) : engineTurn s = .next s := by
  rcases engineTurn_cases s with ⟨-, he⟩ | ⟨-, -, he⟩ | ⟨w, hrst, hlatch, -⟩
  · exact he
  · exact he
  · simp [hrst, hlatch] at h

theorem completeWord_of_legal {i : Instr} (h : decode w = .ok i) :
    completeWord w s = exec i s := by
  rw [completeWord, h]

/-- A word with a reserved bit, or of 8 or more, has no command (30_encoding.md R123, R124). -/
theorem exists_decode_error (h : w.extractLsb' 4 28 ≠ 0 ∨ 8 ≤ w.toNat) :
    ∃ r, decode w = .error r := by
  rw [exists_decode_error_iff, exists_decode_ok_iff]
  intro hlegal
  rcases h with hhigh | hlarge
  · exact hhigh hlegal.1
  · have := (fields_legal_iff_le_seven w).mp hlegal
    omega

/-- An illegal word ends with `ILLEGAL_COMMAND` and the word as its detail. -/
theorem completeWord_of_illegal (h : w.extractLsb' 4 28 ≠ 0 ∨ 8 ≤ w.toNat) :
    completeWord w s = .next (s.ended 6 w 0) := by
  obtain ⟨r, hr⟩ := exists_decode_error h
  rw [completeWord, hr]
  rfl

/-- A completion leaves no command in flight. -/
theorem completeWord_latch {t : State} (h : completeWord w s = .next t) : t.latch = none := by
  rcases completeWord_cases w s with ⟨i, -, hc⟩ | ⟨r, -, hc⟩
  · exact (exec_changesOnlyBy (hc ▸ h)).1
  · rw [hc] at h; cases h
    exact s.raise_latch _

/-- Every issued command completes at the Engine's turn (00_scope.md R14). -/
theorem engineTurn_latch {t : State} (hrst : s.rst = false) (h : engineTurn s = .next t) :
    t.latch = none := by
  rcases engineTurn_cases s with ⟨hheld, -⟩ | ⟨-, hidle, he⟩ | ⟨w, -, -, he⟩
  · exact absurd (hrst.symm.trans hheld) Bool.false_ne_true
  · rw [he] at h; cases h
    exact hidle
  · exact completeWord_latch (he ▸ h)

end

/-! ### The statements -/

/-- Settles O4: the Engine's turn completes the latched word, which decodes to `i`. -/
theorem stepRunsTheLatchedCommand : Obligations.StepRunsTheLatchedCommand := by
  intro s w i hcfg hrst hlatch hdecode _
  constructor
  · intro rest hagenda
    calc step s
        = engineTurn { s with agenda := rest } := step_of_agenda_cons hcfg hagenda
      _ = completeWord w { s with agenda := rest } := engineTurn_of_busy hrst hlatch
      _ = exec i { s with agenda := rest } := completeWord_of_legal hdecode
  · intro hagenda
    rw [step_of_agenda_nil hcfg hagenda, engineTurn_of_busy hrst hlatch, completeWord_of_legal hdecode]

/-- Settles O5: the Engine's turn completes the latched word, which has no command. -/
theorem illegalWordCompletesWithIllegalCommand :
    Obligations.IllegalWordCompletesWithIllegalCommand := by
  intro s w hcfg hrst hlatch hillegal
  constructor
  · intro rest hagenda
    calc step s
        = engineTurn { s with agenda := rest } := step_of_agenda_cons hcfg hagenda
      _ = completeWord w { s with agenda := rest } := engineTurn_of_busy hrst hlatch
      _ = .next { s.ended 6 w 0 with agenda := rest } := completeWord_of_illegal hillegal
  · intro hagenda
    rw [step_of_agenda_nil hcfg hagenda, engineTurn_of_busy hrst hlatch,
      completeWord_of_illegal hillegal]

/-- Settles O9: by `engineTurn_of_not_enabled` and `engineTurn_latch` at either of the Engine's turns. -/
theorem engineStepsOnlyWhenBusy : Obligations.EngineStepsOnlyWhenBusy := by
  intro s hcfg
  refine ⟨fun hagenda => ?noInput, fun rest hagenda => ?entry, fun rest hagenda => ?release⟩
  case noInput =>
    rw [step_of_agenda_nil hcfg hagenda]
    exact ⟨engineTurn_of_not_enabled, fun hrst _ => engineTurn_latch hrst⟩
  case entry =>
    rw [step_of_agenda_cons hcfg hagenda]
    exact ⟨engineTurn_of_not_enabled (s := { s with agenda := rest }),
      fun hrst _ => engineTurn_latch (s := { s with agenda := rest }) hrst⟩
  case release => exact step_of_agenda_cons hcfg hagenda

/-- A busy block drops every aligned transaction that R290 does not name. -/
theorem hostTransaction_dropped {x : HostTxn} {s : State} (hword : x.alignedWord = true)
    (hbusy : s.latch.isSome = true) (hnamed : x.allowedBusy = false) :
    hostTransaction x s = .next (droppedBusy x s) := by
  simp [hostTransaction, hword, hbusy, hnamed]

/-- A busy block drops every register write but those of `CTRL` and `STATUS`
(70_reset_and_hazards.md R290). -/
theorem State.writesAs_of_busy {s : State} (hbusy : s.latch.isSome = true) (data : Word) {r : Reg}
    (hctrl : r ≠ .ctrl) (hstatus : r ≠ .status) : s.writesAs r.offset data s.flagHostErr := by
  have hnamed : (HostTxn.write r.offset 0xF data).allowedBusy = false := by
    cases r with
    | ctrl => exact absurd rfl hctrl
    | status => exact absurd rfl hstatus
    | _ => rfl
  exact hostTransaction_dropped (alignedWord_write_offset r data) hbusy hnamed

/-- Settles O11: an idle block performs the write, a busy one drops it. -/
theorem cmdWriteIssuesTheWord : Obligations.CmdWriteIssuesTheWord := fun _ w =>
  ⟨fun hidle => State.writesAs_register hidle w (r := .cmd) nofun,
    fun hbusy => State.writesAs_of_busy hbusy w (r := .cmd) nofun nofun⟩

theorem exec_nop (s : State) : exec .nop s = .next (s.ended 0 0 0) := rfl

/-- Settles O12: the completion of NOP, on any state and on one just issued. -/
theorem nopOnlyCompletes : Obligations.NopOnlyCompletes := fun s =>
  ⟨exec_nop s, exec_nop (s.issue 0)⟩

end Sys2Proof.Machine
end

section
/-! # Commands that read an unwritten location

A command stops with a fault when its checks pass and one of its operands does not read
(93_implementation_defined.md I1). One lemma a rule says which operands those are; one lemma about ranges
says at which location an operand stops. -/

namespace Sys2Proof.Machine

/-! ### Operands with an unwritten location -/

/-- A range read stops at the first unwritten address, when that lies in the range. -/
theorem Memory.readRange_error_of_first {α : Type} {m : Memory α} {missing : Nat → Fault} {a n i : Nat}
    (ha : a ≤ i) (hi : i < a + n) (hwritten : Memory.written m 0 i) (hnone : Memory.read m i = none) :
    Memory.readRange m missing a n = .error (missing i) := by
  obtain ⟨j, rfl⟩ := Nat.exists_eq_add_of_le ha
  refine Memory.readRange_error (by omega) (fun k hk => ?_) hnone
  simpa using hwritten (a + k) (by omega)

section
variable {s : State} {i : Nat}

theorem State.textOperand_of_unwritten (hi : i < s.textLen.toNat) (hwritten : Memory.written s.text 0 i)
    (hnone : Memory.read s.text i = none) : s.textOperand = .error (.unwrittenText i) :=
  Memory.readRange_error_of_first i.zero_le (by rwa [Nat.zero_add]) hwritten hnone

theorem State.bitOperand_of_unwritten (hi : i < s.bitLen.toNat) (hwritten : Memory.written s.bits 0 i)
    (hnone : Memory.read s.bits i = none) : s.bitOperand = .error (.unwrittenBit i) :=
  Memory.readRange_error_of_first i.zero_le (by rwa [Nat.zero_add]) hwritten hnone

theorem State.pixelOperand_of_unwritten {a n : Nat} (ha : a ≤ i) (hi : i < a + n)
    (hwritten : Memory.written s.pix 0 i) (hnone : Memory.read s.pix i = none) :
    s.pixelOperand a n = .error (.unwrittenPixel i) :=
  Memory.readRange_error_of_first ha hi hwritten hnone

end

/-- Whatever ends the walk of ENCODE at position `i + k` ends it from `i`, when the symbols between have
codes. -/
theorem State.encodeFrom_error_of_suffix {s : State} {i k n : Nat} {h : Halt}
    (hbefore : ∀ j, j < k → ∃ d code, Memory.read s.text (i + j) = some d ∧ s.codeOf d = some code)
    (hend : s.encodeFrom (i + k) n = .error h) : s.encodeFrom i (k + n) = .error h := by
  induction k generalizing i with
  | zero => rwa [Nat.zero_add]
  | succ k ih =>
    obtain ⟨d, code, hread, hcode⟩ := hbefore 0 k.succ_pos
    have hshift (j : Nat) : i + (j + 1) = i + 1 + j := by omega
    have hrest : s.encodeFrom (i + 1) (k + n) = .error h :=
      ih (fun j hj => hshift j ▸ hbefore (j + 1) (Nat.succ_lt_succ hj)) (hshift k ▸ hend)
    rw [Nat.succ_add, State.encodeFrom_succ (i := i) hread hcode, hrest]
    rfl

/-- The walk of ENCODE stops at an unwritten byte that only symbols with codes precede. -/
theorem State.encodeFrom_of_unwritten {s : State} {i n : Nat} (hi : i < n)
    (hbefore : ∀ j, j < i → ∃ d code, Memory.read s.text j = some d ∧ s.codeOf d = some code)
    (hnone : Memory.read s.text i = none) :
    s.encodeFrom 0 n = .error (.fault (.unwrittenText i)) := by
  obtain ⟨m, rfl⟩ := Nat.exists_eq_add_of_lt hi
  have hend : s.encodeFrom (0 + i) (m + 1) = .error (.fault (.unwrittenText i)) := by
    rw [Nat.zero_add, State.encodeFrom, hnone]
  exact State.encodeFrom_error_of_suffix (k := i) (by simpa only [Nat.zero_add]) hend

/-! ### The rules that stop -/

section
variable {s : State} {f : Fault}

/-- FREQ stops: a text in bounds, not empty and not written (40_frequency_table.md R141, R142). -/
theorem freqRule_fault_iff :
    freqRule s = .error (.fault f) ↔
      s.textLen.toNat ≤ s.cfg.maxTextLen ∧ s.textLen ≠ 0 ∧ s.textOperand = .error f := by
  unfold freqRule
  by_cases hlong : s.cfg.maxTextLen < s.textLen.toNat
  · simp [hlong, Nat.not_le.mpr hlong]
  · by_cases hempty : s.textLen = 0
    · simp [hempty]
    · rw [if_neg hlong, if_neg hempty, and_iff_right (Nat.not_lt.mp hlong), and_iff_right hempty]
      cases s.textOperand <;> simp

/-- DECODE stops: a committed table and a bitstring not written (44_decoder.md R202). -/
theorem decodeRule_fault_iff :
    decodeRule s = .error (.fault f) ↔ s.codeValid = true ∧ s.bitOperand = .error f := by
  unfold decodeRule
  cases s.codeValid with
  | false => simp
  | true =>
    cases s.bitOperand with
    | error g => simp
    | ok input =>
      by_cases hlong : s.cfg.maxTextLen < (s.decodeBits input).out.length <;> simp [hlong]

/-- EMBED stops: a stream that fits, and the bitstring or, after it, the pixel bytes not written
(45_lsb_channel.md R219 to R221). -/
theorem embedRule_fault_iff :
    embedRule s = .error (.fault f) ↔
      s.pixCount.toNat ≤ s.cfg.maxPixels ∧ hdrBits + s.bitLen.toNat ≤ s.slots ∧
        (s.bitOperand = .error f ∨
          ∃ payload, s.bitOperand = .ok payload ∧
            s.pixelOperand 0 (hdrBits + s.bitLen.toNat) = .error f) := by
  unfold embedRule
  by_cases hcount : s.cfg.maxPixels < s.pixCount.toNat
  · simp [hcount, Nat.not_le.mpr hcount]
  · by_cases hfull : s.slots < hdrBits + s.bitLen.toNat
    · simp [hcount, hfull, Nat.not_le.mpr hfull]
    · cases s.bitOperand with
      | error g => simp [hcount, hfull, Nat.not_lt.mp hcount, Nat.not_lt.mp hfull]
      | ok payload =>
        cases s.pixelOperand 0 (hdrBits + s.bitLen.toNat) <;>
          simp [hcount, hfull, Nat.not_lt.mp hcount, Nat.not_lt.mp hfull]

/-- EXTRACT stops: the header not written, or a header that fits and its payload not written
(45_lsb_channel.md R226 to R228). -/
theorem extractRule_fault_iff :
    extractRule s = .error (.fault f) ↔
      s.pixCount.toNat ≤ s.cfg.maxPixels ∧ hdrBits ≤ s.slots ∧
        (s.pixelOperand 0 hdrBits = .error f ∨
          ∃ header, s.pixelOperand 0 hdrBits = .ok header ∧
            bitsVal (header.map lsb) ≤ s.slots - hdrBits ∧
            s.pixelOperand hdrBits (bitsVal (header.map lsb)) = .error f) := by
  unfold extractRule
  by_cases hcount : s.cfg.maxPixels < s.pixCount.toNat
  · simp [hcount, Nat.not_le.mpr hcount]
  · by_cases hfew : s.slots < hdrBits
    · simp [hcount, hfew, Nat.not_le.mpr hfew]
    · cases s.pixelOperand 0 hdrBits with
      | error g => simp [hcount, hfew, Nat.not_lt.mp hcount, Nat.not_lt.mp hfew]
      | ok header =>
        by_cases hlong : s.slots - hdrBits < bitsVal (header.map lsb)
        · simp [hcount, hfew, hlong, Nat.not_le.mpr hlong]
        · cases hread : s.pixelOperand hdrBits (bitsVal (header.map lsb)) <;>
            simp [hcount, hfew, hlong, hread, Nat.not_lt.mp hcount, Nat.not_lt.mp hfew,
              Nat.not_lt.mp hlong]

/-- A command stops with the fault of its rule. -/
theorem State.finish_of_fault {r : Except Halt State} (h : r = .error (.fault f)) :
    s.finish r = .fault f := by
  rw [h, State.finish_fault]

end

/-! ### The statement -/

/-- FREQ and ENCODE stop at the first unwritten byte of a text in bounds. -/
theorem exec_of_unwritten_text {s : State} {i : Nat} (hle : s.textLen.toNat ≤ s.cfg.maxTextLen)
    (hi : i < s.textLen.toNat) (hwritten : Memory.written s.text 0 i)
    (hnone : Memory.read s.text i = none) :
    exec .freq s = .fault (.unwrittenText i) ∧
      ((∀ j, j < i → ∀ c, Memory.read s.text j = some c →
        s.codeValid = true ∧ (s.entry c).present = true) →
        exec .encode s = .fault (.unwrittenText i)) := by
  refine ⟨?freq, fun hcodes => ?encode⟩
  case freq =>
    have hne : s.textLen ≠ 0 := by rintro h0; simp [h0] at hi
    exact State.finish_of_fault
      (freqRule_fault_iff.mpr ⟨hle, hne, State.textOperand_of_unwritten hi hwritten hnone⟩)
  case encode =>
    have hbefore : ∀ j, j < i → ∃ d code, Memory.read s.text j = some d ∧ s.codeOf d = some code := by
      intro j hj
      have hsome := hwritten j hj
      rw [Nat.zero_add] at hsome
      obtain ⟨d, hd⟩ := Option.isSome_iff_exists.mp hsome
      obtain ⟨hvalid, hpresent⟩ := hcodes j hj d hd
      exact ⟨d, _, hd, State.codeOf_eq_some hvalid hpresent⟩
    exact State.finish_of_fault
      (encodeRule_error_iff.mpr (.inr ⟨hle, .inl (State.encodeFrom_of_unwritten hi hbefore hnone)⟩))

/-- DECODE and EMBED stop at the first unwritten bit of the bitstring. -/
theorem exec_of_unwritten_bit {s : State} {i : Nat} (hi : i < s.bitLen.toNat)
    (hwritten : Memory.written s.bits 0 i) (hnone : Memory.read s.bits i = none) :
    (s.codeValid = true → exec .decode s = .fault (.unwrittenBit i)) ∧
      (s.pixCount.toNat ≤ s.cfg.maxPixels → 24 + s.bitLen.toNat ≤ 3 * s.pixCount.toNat →
        exec .embed s = .fault (.unwrittenBit i)) := by
  have hread := State.bitOperand_of_unwritten hi hwritten hnone
  exact ⟨fun hvalid => State.finish_of_fault (decodeRule_fault_iff.mpr ⟨hvalid, hread⟩),
    fun hcount hfits => State.finish_of_fault (embedRule_fault_iff.mpr ⟨hcount, hfits, .inl hread⟩)⟩

/-- EXTRACT stops at the first unwritten payload byte, when the header is written and fits. -/
theorem exec_extract_of_unwritten_payload {s : State} {i len : Nat} {header : List Byte}
    (hcount : s.pixCount.toNat ≤ s.cfg.maxPixels) (hheader : header.length = 24)
    (hholds : Memory.holds s.pix 0 header) (hdeclared : bitsVal (header.map lsb) = len)
    (hfits : 24 + len ≤ 3 * s.pixCount.toNat) (hge : 24 ≤ i) (hi : i < 24 + len)
    (hwritten : Memory.written s.pix 0 i) (hnone : Memory.read s.pix i = none) :
    exec .extract s = .fault (.unwrittenPixel i) := by
  subst hdeclared
  have hread : s.pixelOperand 0 hdrBits = .ok header :=
    State.pixelOperand_ok_iff.mpr ⟨hheader, hholds⟩
  refine State.finish_of_fault (extractRule_fault_iff.mpr ⟨hcount, ?slots, .inr ⟨header, hread, ?short,
    State.pixelOperand_of_unwritten hge hi hwritten hnone⟩⟩)
  case slots => rw [State.slots, hdrBits]; omega
  case short => rw [State.slots, hdrBits]; omega

/-- Settles O29: each command by what its rule stops at, on the operand that does not read. -/
theorem commandsFaultOnUnwrittenOperands : Obligations.CommandsFaultOnUnwrittenOperands := by
  refine fun s i => ⟨exec_of_unwritten_text, exec_of_unwritten_bit, fun hcount hwritten hnone =>
    ⟨fun hfits hi hbits => ?embed, fun hslots hi => ?header,
      fun header len hheader hholds hdeclared hfits hge hi => ?payload⟩⟩
  case embed =>
    obtain ⟨payload, hpayload⟩ := Memory.exists_holds_of_written hbits
    have hread : s.pixelOperand 0 (hdrBits + s.bitLen.toNat) = .error (.unwrittenPixel i) :=
      State.pixelOperand_of_unwritten i.zero_le (by rwa [Nat.zero_add]) hwritten hnone
    exact State.finish_of_fault (embedRule_fault_iff.mpr
      ⟨hcount, hfits, .inr ⟨payload, State.bitOperand_of_bitsAre hpayload, hread⟩⟩)
  case header =>
    have hread : s.pixelOperand 0 hdrBits = .error (.unwrittenPixel i) :=
      State.pixelOperand_of_unwritten i.zero_le (by rwa [Nat.zero_add]) hwritten hnone
    exact State.finish_of_fault (extractRule_fault_iff.mpr ⟨hcount, hslots, .inl hread⟩)
  case payload =>
    have hval : bitsVal (header.map lsb) = len := by
      rw [hdeclared, ← bitsVal_map_lsb_take hheader.ge, List.take_of_length_le hheader.le]
    exact exec_extract_of_unwritten_payload hcount hheader hholds hval hfits hge hi hwritten hnone

end Sys2Proof.Machine
end

section
/-! # Errors, the interrupt, the busy hazard and reset

The statements about the ends of commands (60_exceptions.md) follow from the frame of a command, those
about a busy block and about reset (70_reset_and_hazards.md) from whose turn a step is and what that turn
performs. -/

namespace Sys2Proof.Machine

/-! ### The busy hazard (70_reset_and_hazards.md R290) -/

/-- The accesses that R290 names are performed whether the block is busy or not. -/
theorem hostTransaction_allowed {x : HostTxn} (hword : x.alignedWord = true)
    (hnamed : x.allowedBusy = true) (s : State) : hostTransaction x s = perform x s := by
  simp [hostTransaction, hword, hnamed]

/-- A busy block performs no access but the aligned ones that R290 names. -/
theorem hostTransaction_notPerformed {x : HostTxn} {s : State} (hbusy : s.latch.isSome = true)
    (h : ¬ (x.alignedWord = true ∧ x.allowedBusy = true)) :
    hostTransaction x s = .next (misaligned x s) ∨ hostTransaction x s = .next (droppedBusy x s) := by
  rcases hostTransaction_cases x s with ⟨-, hx⟩ | ⟨-, -, -, hx⟩ | ⟨hword, hidle | hnamed, -⟩
  · exact .inl hx
  · exact .inr hx
  · exact absurd (hidle.symm.trans hbusy) Bool.false_ne_true
  · exact absurd ⟨hword, hnamed⟩ h

theorem allowedBusy_read_iff {off : BitVec 12} {be : BitVec 4} :
    (HostTxn.read off be).allowedBusy = true ↔ off = 0x000 ∨ off = 0x008 ∨ off = 0x00C := by
  simp [HostTxn.allowedBusy, Reg.offset, or_assoc]

theorem allowedBusy_write_iff {off : BitVec 12} {be : BitVec 4} {data : Word} :
    (HostTxn.write off be data).allowedBusy = true ↔ off = 0x00C ∨ off = 0x008 := by
  simp [HostTxn.allowedBusy, Reg.offset]

/-- `ID`, `STATUS` and `CTRL` read as their words, busy or not. -/
theorem State.readsAs_allowed (s : State) {r : Reg} (hr : r = .id ∨ r = .status ∨ r = .ctrl) :
    s.readsAs r.offset (s.regWord r) := by
  rcases hr with rfl | rfl | rfl <;> exact hostTransaction_allowed rfl rfl s

/-- `STATUS` and `CTRL` take a write as `writeReg` says, busy or not. -/
theorem State.writesAs_allowed (s : State) (data : Word) {r : Reg} (hr : r = .status ∨ r = .ctrl) :
    s.writesAs r.offset data (s.writeReg data r) := by
  rcases hr with rfl | rfl <;> exact hostTransaction_allowed rfl rfl s

/-- Settles O17: an access is one that R290 names, or it is not performed. -/
theorem busyBlockDropsOtherAccesses : Obligations.BusyBlockDropsOtherAccesses := by
  intro s off be data hbusy
  refine ⟨fun hother => ?write, fun hother => ?read, s.readsAs_allowed (.inl rfl),
    s.readsAs_allowed (.inr (.inl rfl)), s.readsAs_allowed (.inr (.inr rfl)),
    s.writesAs_allowed data (.inr rfl), s.writesAs_allowed data (.inl rfl)⟩
  case write =>
    have hnot : ¬ ((HostTxn.write off be data).alignedWord = true ∧
        (HostTxn.write off be data).allowedBusy = true) := by
      rw [alignedWord_write_iff, allowedBusy_write_iff]
      tauto
    rcases hostTransaction_notPerformed hbusy hnot with hx | hx <;> exact hx
  case read =>
    have hnot : ¬ ((HostTxn.read off be).alignedWord = true ∧
        (HostTxn.read off be).allowedBusy = true) := by
      rw [alignedWord_read_iff, allowedBusy_read_iff]
      tauto
    rcases hostTransaction_notPerformed hbusy hnot with hx | hx <;> exact ⟨_, _, hx⟩

/-! ### Errors and the interrupt (60_exceptions.md R253, R261, R262) -/

/-- Settles O13: a success reports code 0, and an error writes the error and completion fields only. -/
theorem errorChangesOnlyErrorFields : Obligations.ErrorChangesOnlyErrorFields := by
  intro i s t h hcode
  rcases exec_next_withRow h with ⟨s', rfl⟩ | ⟨e, rfl⟩
  · exact absurd (State.complete_errCode _) hcode
  · rfl

/-- Settles O15: a completion sets `DONE` and leaves `IRQ_EN` alone; the issue and the W1C clear `DONE`. -/
theorem interruptFollowsDone : Obligations.InterruptFollowsDone := by
  refine ⟨fun i s t h => ?completion, fun s t w hidle h => ?issue, fun s t w hclear h => ?w1c⟩
  case completion =>
    obtain ⟨-, hdone, -, -, -, -, -, -, hirqEn, -⟩ := commandsWriteOnlyTheirOperands i s t h
    rw [State.irq, hdone, hirqEn, Bool.true_and]
  case issue =>
    have hissue : hostTransaction (.write 0x004 0xF w) s = .next (s.issue w) :=
      State.writesAs_register hidle w (r := .cmd) nofun
    obtain rfl := Host.Outcome.next.inj (hissue.symm.trans h)
    rw [State.irq, State.issue_done, Bool.false_and]
  case w1c =>
    have hwrite : hostTransaction (.write 0x008 0xF w) s = .next (s.writeStatus w) :=
      s.writesAs_allowed w (.inl rfl)
    obtain rfl := Host.Outcome.next.inj (hwrite.symm.trans h)
    simp [State.irq, hclear]

/-! ### Steps (70_reset_and_hazards.md R280) -/

/-- Settles O6: the Host's turn under either level of `rst`. -/
theorem stepPresentsTheTransaction : Obligations.StepPresentsTheTransaction := by
  intro s x rest hcfg hagenda
  have hstep : step s = hostTurn x { s with agenda := rest } := step_of_agenda_cons hcfg hagenda
  refine ⟨fun hrst => ?free, fun hrst => ?held⟩
  case free => simp only [hstep, hostTurn, hrst, Bool.false_eq_true, if_false]
  case held => simp only [hstep, hostTurn, hrst, if_true]

/-- Settles O7: the step is `applyReset` on the state with the entry removed. -/
theorem resetInputResetsTheBlock : Obligations.ResetInputResetsTheBlock := by
  intro s rest hcfg hagenda
  have hstep : step s = .next (State.applyReset { s with agenda := rest }) :=
    step_of_agenda_cons hcfg hagenda
  exact ⟨_, hstep, rfl, rfl, rfl, rfl, rfl, rfl⟩

/-- An admitted configuration is inside the ranges of 00_scope.md R6. -/
theorem params_wf_iff {p : Params} :
    p.wf = true ↔ (1 ≤ p.maxTextLen ∧ p.maxTextLen < 2 ^ 24) ∧
      (8 ≤ p.maxPixels ∧ p.maxPixels < 2 ^ 30) ∧ p.base % 4096 = 0 := by
  simp only [Params.wf, Params.textOk, Params.pixelsOk, Params.baseOk, Bool.and_eq_true,
    decide_eq_true_eq]
  omega

/-- Settles O10: each disjunct contradicts one range of `params_wf_iff`. -/
theorem badConfigurationIsRefused : Obligations.BadConfigurationIsRefused := by
  intro s hbad
  have hnot : ¬ s.cfg.wf = true := by
    rw [params_wf_iff]
    omega
  exact if_neg hnot

/-! ### A block held in reset (70_reset_and_hazards.md R280) -/

/-- The input of `rst` is no register: a command leaves it alone. -/
theorem completeWord_rst {w : Word} {s t : State} (h : completeWord w s = .next t) :
    t.rst = s.rst := by
  rcases completeWord_cases w s with ⟨i, -, hc⟩ | ⟨r, -, hc⟩
  · obtain ⟨-, -, -, -, hrst, -⟩ := commandsWriteOnlyTheirOperands i s t (hc ▸ h)
    exact hrst
  · rw [hc] at h; cases h
    exact s.raise_rst _

@[simp] theorem State.writeReg_rst (s : State) (data : Word) (r : Reg) :
    (s.writeReg data r).rst = s.rst := by
  cases r <;> rfl

@[simp] theorem State.windowWrite_rst (s : State) (win : Window) (w : Nat) (data : Word) :
    (s.windowWrite win w data).rst = s.rst := by
  cases win with
  | nodes => exact s.flagHostErr_rst
  | text | bits | pixel | freqTab | codeRom => simp only [State.windowWrite]

@[simp] theorem writeMemData_rst (s : State) (data : Word) : (writeMemData s data).rst = s.rst := by
  unfold writeMemData
  cases s.windowInRange <;> simp

@[simp] theorem performWrite_rst (off : BitVec 12) (data : Word) (s : State) :
    (performWrite off data s).rst = s.rst := by
  unfold performWrite
  split
  · exact writeMemData_rst s data
  · exact s.writeReg_rst data _
  · rfl

/-- No transaction reaches the `rst` port. -/
theorem hostTransaction_rst {x : HostTxn} {s t : State} (h : hostTransaction x s = .next t) :
    t.rst = s.rst := by
  rcases hostTransaction_frame h with ⟨v, e, a, n, rfl⟩ | ⟨off, be, data, -, rfl⟩
  · rfl
  · exact performWrite_rst off data s

/-- A block that is not held in reset. -/
theorem State.heldInReset_of_free {s : State} (h : s.rst = false) : s.HeldInReset :=
  fun hheld => absurd (h.symm.trans hheld) Bool.false_ne_true

/-- The inputs to come are not part of the reset state. -/
theorem State.HeldInReset.with_agenda {s : State} (hs : s.HeldInReset) (rest : List Event) :
    State.HeldInReset { s with agenda := rest } :=
  fun hheld => congrArg (fun u : State => { u with agenda := rest }) (hs hheld)

theorem State.applyReset_applyReset (s : State) : s.applyReset.applyReset = s.applyReset := rfl

/-- `rst = 1` gives the reset state, and `rst = 0` lets the block go. -/
theorem rstTurn_heldInReset (level : Bool) (s : State) : (rstTurn level s).HeldInReset := by
  cases level with
  | false => exact State.heldInReset_of_free rfl
  | true => exact fun _ => s.applyReset_applyReset.symm

/-- Settles O59: only an input of `rst` raises it, and while it is high the Engine and the Host do
nothing. -/
theorem stepKeepsReset : Obligations.StepKeepsReset := fun _ _ =>
  step_keeps (fun _ rest hs => hs.with_agenda rest)
    (fun _ _ _ hfree _ _ h => State.heldInReset_of_free ((completeWord_rst h).trans hfree))
    (fun _ _ _ hfree _ h => State.heldInReset_of_free ((hostTransaction_rst h).trans hfree))
    (fun level s _ => rstTurn_heldInReset level s)

end Sys2Proof.Machine
end
